-- ==== Sys2Proof/Word.lean ====
section
/-! DEFINITION. The words of the machine: data bytes, 16-bit words, register numbers (10_state.md R30, R33, R34). -/

namespace Sys2Proof

/-- A data register or a memory cell: 8 bits, unsigned (00_scope.md R7, R11). -/
abbrev Byte := BitVec 8

/-- PC, I, a stack entry or an instruction word: 16 bits, unsigned (00_scope.md R7). -/
abbrev Word := BitVec 16

/-- A register number, the X or Y field of an instruction: 0 to 15 (10_state.md R30). -/
abbrev Reg := Fin 16

/-- VF, register 15, "a carry/flag/collision output by several opcodes" (10_state.md R31). -/
abbrev vf : Reg := 15

/-- A key index: 0 to 15 (10_state.md R39). -/
abbrev Key := Fin 16

end Sys2Proof
end

