-- ==== Sys2Proof/Config.lean ====
section
/-! DEFINITION. The implementation parameters of 00_scope.md R8, and the constants with no body: the OPEN parameters and the
free values of the spec, the transactions that one of them ranges over among them. The default values that the spec gives are in Machine/Defaults.lean. -/

namespace Sys2Proof

/-- SHIFT_SOURCE: which register 8XY6 and 8XYE shift (R8, D7). -/
inductive ShiftSource where
  | vy
  | vx
  deriving DecidableEq, Repr

/-- FX0A_WAIT: what FX0A waits for after it found a key (R8, R304, D8). -/
inductive KeyWait where
  | none
  | untilRelease
  | untilAnyChange
  deriving DecidableEq, Repr

/-- VF_ORDER: the order of the two writes of 8XY6 and 8XYE (R8, D9). -/
inductive VfOrder where
  | textOrder
  | flagLast
  deriving DecidableEq, Repr

/-- The parameters of one machine (R8). A model takes each as an argument, so State holds them, and no step changes them. -/
structure Config where
  shiftSource : ShiftSource
  keyWait : KeyWait
  /-- STACK_DEPTH; `none` is unbounded. -/
  stackDepth : Option Nat
  /-- FONT_DATA: the byte at 0x050 + k is entry k. -/
  fontData : Vector Byte 80
  fontWritable : Bool
  vfOrder : VfOrder
  /-- DELAY_MIN, DELAY_MAX and DELAY_INIT are unsigned, as every value is (R11). -/
  delayMin : Nat
  delayMax : Nat
  delayInit : Nat
  frameCap : Nat
  beepCap : Nat
  deriving DecidableEq, Repr

/-- What becomes of an event offered to a channel when it cannot simply be queued (60_exceptions.md R353): its consumer is
gone and it is dropped, or, if the channel is full, the new or the oldest event is dropped. -/
inductive Loss where
  | consumerGone
  | dropNewest
  | dropOldest
  deriving DecidableEq, Repr, Inhabited

/-- An input transaction of the block (60_exceptions.md R350), or the consumer taking the oldest event of a channel (R361). -/
inductive Transaction where
  /-- ENGINE: one instruction or an idle step. -/
  | cycle
  /-- TIMER: one decrement of DT and ST. -/
  | tick
  /-- HOST: key `k` is pressed or released. -/
  | key (k : Key) (pressed : Bool)
  /-- HOST: load a program. -/
  | load (rom : List Byte)
  /-- HOST: the power-on reset. -/
  | init
  /-- HOST: change the pacing delay by a signed amount (R358). -/
  | speed (delta : Int)
  /-- HOST: read the status registers. -/
  | status
  /-- The frame consumer takes one event. -/
  | takeFrame
  /-- The beep consumer takes one event. -/
  | takeBeep
  deriving DecidableEq, Repr, Inhabited

/-- DESIGN CHOICE (log 4), safe. DELAY_MIN, OPEN in R8: no value is known here. -/
opaque Config.openDelayMin : Nat

/-- DESIGN CHOICE (log 4), safe. DELAY_MAX, OPEN in R8. -/
opaque Config.openDelayMax : Nat

/-- DESIGN CHOICE (log 4), safe. DELAY_INIT, OPEN in R8. -/
opaque Config.openDelayInit : Nat

/-- DESIGN CHOICE (log 4), safe. FRAME_CAP, OPEN in R8. -/
opaque Config.openFrameCap : Nat

/-- DESIGN CHOICE (log 4), safe. BEEP_CAP, OPEN in R8. -/
opaque Config.openBeepCap : Nat

/-- DESIGN CHOICE (log 2), safe. The fresh random byte of the CXNN numbered by the argument, when the HOST has supplied none
(42_alu.md R221): any byte. -/
opaque Config.freeRand : Nat → Byte

/-- DESIGN CHOICE (log 3), safe. What becomes of the event whose place in the output trace is the argument (60_exceptions.md
R353): the spec leaves it open. -/
opaque Config.loss : Nat → Loss

/-- DESIGN CHOICE (log 1), safe. The transition that moves at the turn numbered by the argument, when the surroundings of the
block have fixed none: any of any agent (20_memory.md R81, 70_reset_and_hazards.md R405). -/
opaque Config.scheduled : Nat → Transaction

end Sys2Proof
end

