-- ==== Sys2Proof/WellFormed.lean ====
section
/-! DEFINITION. What the types of the syntax and of the parameters do not already say. -/

namespace Sys2Proof

/-- The operands fit their fields (30_encoding.md R101). Register numbers, bytes and addresses fit by their types; the count N
of DXYN has 4 bits. -/
def Instr.wellFormed : Instr → Bool
  | .drw _ _ n => decide (n < 16)
  | .cls | .ret | .jp _ | .call _ | .seImm _ _ | .sneImm _ _ | .seReg _ _ | .ldImm _ _ | .addImm _ _
  | .ldReg _ _ | .orReg _ _ | .andReg _ _ | .xorReg _ _ | .addReg _ _ | .sub _ _ | .shr _ _ | .subn _ _
  | .shl _ _ | .sneReg _ _ | .ldI _ | .jpV0 _ | .rnd _ _ | .skp _ | .sknp _ | .ldVxDt _ | .ldVxK _
  | .ldDtVx _ | .ldStVx _ | .addIVx _ | .ldFVx _ | .ldBVx _ | .ldMemVx _ | .ldVxMem _ => true

/-- STACK_DEPTH is "unbounded, or a positive integer" (00_scope.md R8). -/
def Config.wellFormed (c : Config) : Bool := decide (c.stackDepth ≠ some 0)

end Sys2Proof
end

