-- ==== Sys2Proof/Decode.lean ====
section
/-! DEFINITION. Decoding (30_encoding.md R100 to R108), the opcode map as data (R105), and the encoder. -/

namespace Sys2Proof

/-! ### Fields (R101) -/

/-- nibble3, the major opcode: bits 15:12. -/
def fieldOp (w : Word) : BitVec 4 := w.extractLsb' 12 4

/-- X, bits 11:8. -/
def fieldX (w : Word) : Reg := (w.extractLsb' 8 4).toFin

/-- Y, bits 7:4. -/
def fieldY (w : Word) : Reg := (w.extractLsb' 4 4).toFin

/-- N (nibble0), bits 3:0. -/
def fieldN (w : Word) : BitVec 4 := w.extractLsb' 0 4

/-- NN, bits 7:0. -/
def fieldNN (w : Word) : Byte := w.extractLsb' 0 8

/-- NNN, bits 11:0. -/
def fieldNNN (w : Word) : BitVec 12 := w.extractLsb' 0 12

/-! ### The decoder (R104) -/

/-- The words whose major opcode is 0: only 00E0 and 00EE, exactly (R104, R108). -/
def decodeZero (w : Word) : Option Instr :=
  if w = 0x00E0#16 then some .cls else if w = 0x00EE#16 then some .ret else none

/-- 8XYn by its minor opcode n (R104). -/
def decodeArith (x y : Reg) (n : BitVec 4) : Option Instr :=
  if n = 0x0#4 then some (.ldReg x y)
  else if n = 0x1#4 then some (.orReg x y)
  else if n = 0x2#4 then some (.andReg x y)
  else if n = 0x3#4 then some (.xorReg x y)
  else if n = 0x4#4 then some (.addReg x y)
  else if n = 0x5#4 then some (.sub x y)
  else if n = 0x6#4 then some (.shr x y)
  else if n = 0x7#4 then some (.subn x y)
  else if n = 0xE#4 then some (.shl x y)
  else none

/-- EXnn by its minor opcode nn (R104). -/
def decodeKey (x : Reg) (nn : Byte) : Option Instr :=
  if nn = 0x9E#8 then some (.skp x) else if nn = 0xA1#8 then some (.sknp x) else none

/-- FXnn by its minor opcode nn (R104). -/
def decodeMisc (x : Reg) (nn : Byte) : Option Instr :=
  if nn = 0x07#8 then some (.ldVxDt x)
  else if nn = 0x0A#8 then some (.ldVxK x)
  else if nn = 0x15#8 then some (.ldDtVx x)
  else if nn = 0x18#8 then some (.ldStVx x)
  else if nn = 0x1E#8 then some (.addIVx x)
  else if nn = 0x29#8 then some (.ldFVx x)
  else if nn = 0x33#8 then some (.ldBVx x)
  else if nn = 0x55#8 then some (.ldMemVx x)
  else if nn = 0x65#8 then some (.ldVxMem x)
  else none

/-- The instruction a word stands for, `none` where it is unrecognized (R104, R106). -/
def decodeWord (w : Word) : Option Instr :=
  let x := fieldX w
  let y := fieldY w
  let n := fieldN w
  let nn := fieldNN w
  let nnn := fieldNNN w
  let op := fieldOp w
  if op = 0x0#4 then decodeZero w
  else if op = 0x1#4 then some (.jp nnn)
  else if op = 0x2#4 then some (.call nnn)
  else if op = 0x3#4 then some (.seImm x nn)
  else if op = 0x4#4 then some (.sneImm x nn)
  else if op = 0x5#4 then (if n = 0x0#4 then some (.seReg x y) else none)
  else if op = 0x6#4 then some (.ldImm x nn)
  else if op = 0x7#4 then some (.addImm x nn)
  else if op = 0x8#4 then decodeArith x y n
  else if op = 0x9#4 then (if n = 0x0#4 then some (.sneReg x y) else none)
  else if op = 0xA#4 then some (.ldI nnn)
  else if op = 0xB#4 then some (.jpV0 nnn)
  else if op = 0xC#4 then some (.rnd x nn)
  else if op = 0xD#4 then some (.drw x y n.toNat)
  else if op = 0xE#4 then decodeKey x nn
  else decodeMisc x nn

/-- Why a byte sequence is no instruction: fewer than two bytes stand there (R100), or the word is unrecognized (R106). -/
inductive Reject where
  | truncated
  | unrecognized (w : Word)
  deriving DecidableEq, Repr

/-- What the decoder answers: an instruction and the bytes after it, or a rejection by name. -/
inductive Decoded where
  | instr (i : Instr) (rest : List Byte)
  | rejected (why : Reject)
  deriving DecidableEq, Repr

/-- The two bytes of an instruction as its word, the first byte high (20_memory.md R74). -/
def wordOfBytes (hi lo : Byte) : Word := hi ++ lo

/-- Decode the instruction at the front of a byte sequence. -/
def decode : List Byte → Decoded
  | hi :: lo :: rest =>
    match decodeWord (wordOfBytes hi lo) with
    | some i => .instr i rest
    | none => .rejected (.unrecognized (wordOfBytes hi lo))
  | [_] => .rejected .truncated
  | [] => .rejected .truncated

/-- The high byte of a word, the one at the lower address (20_memory.md R74). -/
def highByte (w : Word) : Byte := w.extractLsb' 8 8

/-- The low byte of a word. -/
def lowByte (w : Word) : Byte := w.extractLsb' 0 8

/-- The host's question: the instruction read from the word whose low `nbits` bits are those of `w` and whose other bits are 0,
laid out as the hardware stores it and given to `decode`. -/
def decodeTableWord (nbits w : Nat) : Option Instr :=
  let word : Word := BitVec.ofNat 16 (w % 2 ^ nbits)
  match decode [highByte word, lowByte word] with
  | .instr i _ => some i
  | .rejected _ => none

/-! ### The encoder (R102, R105) -/

/-- Format ADDR: op, NNN. -/
def encodeAddr (op : BitVec 4) (nnn : BitVec 12) : Word := op ++ nnn

/-- Formats RIMM and RFN: op, X, and a byte (an immediate or a minor opcode). -/
def encodeRegByte (op : BitVec 4) (x : Reg) (b : Byte) : Word := (op ++ BitVec.ofFin (w := 4) x) ++ b

/-- Format RR: op, X, Y, and a nibble (a count or a minor opcode). -/
def encodeRegReg (op : BitVec 4) (x y : Reg) (n : BitVec 4) : Word :=
  ((op ++ BitVec.ofFin (w := 4) x) ++ BitVec.ofFin (w := 4) y) ++ n

/-- The word of an instruction, from the patterns of the opcode map. -/
def encode : Instr → Word
  | .cls => 0x00E0#16
  | .ret => 0x00EE#16
  | .jp nnn => encodeAddr 0x1#4 nnn
  | .call nnn => encodeAddr 0x2#4 nnn
  | .seImm x nn => encodeRegByte 0x3#4 x nn
  | .sneImm x nn => encodeRegByte 0x4#4 x nn
  | .seReg x y => encodeRegReg 0x5#4 x y 0x0#4
  | .ldImm x nn => encodeRegByte 0x6#4 x nn
  | .addImm x nn => encodeRegByte 0x7#4 x nn
  | .ldReg x y => encodeRegReg 0x8#4 x y 0x0#4
  | .orReg x y => encodeRegReg 0x8#4 x y 0x1#4
  | .andReg x y => encodeRegReg 0x8#4 x y 0x2#4
  | .xorReg x y => encodeRegReg 0x8#4 x y 0x3#4
  | .addReg x y => encodeRegReg 0x8#4 x y 0x4#4
  | .sub x y => encodeRegReg 0x8#4 x y 0x5#4
  | .shr x y => encodeRegReg 0x8#4 x y 0x6#4
  | .subn x y => encodeRegReg 0x8#4 x y 0x7#4
  | .shl x y => encodeRegReg 0x8#4 x y 0xE#4
  | .sneReg x y => encodeRegReg 0x9#4 x y 0x0#4
  | .ldI nnn => encodeAddr 0xA#4 nnn
  | .jpV0 nnn => encodeAddr 0xB#4 nnn
  | .rnd x nn => encodeRegByte 0xC#4 x nn
  | .drw x y n => encodeRegReg 0xD#4 x y (BitVec.ofNat 4 n)
  | .skp x => encodeRegByte 0xE#4 x 0x9E#8
  | .sknp x => encodeRegByte 0xE#4 x 0xA1#8
  | .ldVxDt x => encodeRegByte 0xF#4 x 0x07#8
  | .ldVxK x => encodeRegByte 0xF#4 x 0x0A#8
  | .ldDtVx x => encodeRegByte 0xF#4 x 0x15#8
  | .ldStVx x => encodeRegByte 0xF#4 x 0x18#8
  | .addIVx x => encodeRegByte 0xF#4 x 0x1E#8
  | .ldFVx x => encodeRegByte 0xF#4 x 0x29#8
  | .ldBVx x => encodeRegByte 0xF#4 x 0x33#8
  | .ldMemVx x => encodeRegByte 0xF#4 x 0x55#8
  | .ldVxMem x => encodeRegByte 0xF#4 x 0x65#8

/-- The bytes of an instruction in memory, high byte first (R100, 20_memory.md R74). -/
def encodeBytes (i : Instr) : List Byte := [highByte (encode i), lowByte (encode i)]

/-! ### The opcode map as data (R105) -/

/-- The mask and match columns of a row of the opcode map. -/
structure OpRow where
  mask : Word
  value : Word
  deriving DecidableEq, Repr

/-- "A word w selects row k when (w & mask_k) == match_k" (R105). -/
def OpRow.selects (r : OpRow) (w : Word) : Bool := w &&& r.mask == r.value

/-- The row of the opcode map an instruction belongs to (R105). -/
def opRow : Instr → OpRow
  | .cls => ⟨0xFFFF#16, 0x00E0#16⟩
  | .ret => ⟨0xFFFF#16, 0x00EE#16⟩
  | .jp _ => ⟨0xF000#16, 0x1000#16⟩
  | .call _ => ⟨0xF000#16, 0x2000#16⟩
  | .seImm _ _ => ⟨0xF000#16, 0x3000#16⟩
  | .sneImm _ _ => ⟨0xF000#16, 0x4000#16⟩
  | .seReg _ _ => ⟨0xF00F#16, 0x5000#16⟩
  | .ldImm _ _ => ⟨0xF000#16, 0x6000#16⟩
  | .addImm _ _ => ⟨0xF000#16, 0x7000#16⟩
  | .ldReg _ _ => ⟨0xF00F#16, 0x8000#16⟩
  | .orReg _ _ => ⟨0xF00F#16, 0x8001#16⟩
  | .andReg _ _ => ⟨0xF00F#16, 0x8002#16⟩
  | .xorReg _ _ => ⟨0xF00F#16, 0x8003#16⟩
  | .addReg _ _ => ⟨0xF00F#16, 0x8004#16⟩
  | .sub _ _ => ⟨0xF00F#16, 0x8005#16⟩
  | .shr _ _ => ⟨0xF00F#16, 0x8006#16⟩
  | .subn _ _ => ⟨0xF00F#16, 0x8007#16⟩
  | .shl _ _ => ⟨0xF00F#16, 0x800E#16⟩
  | .sneReg _ _ => ⟨0xF00F#16, 0x9000#16⟩
  | .ldI _ => ⟨0xF000#16, 0xA000#16⟩
  | .jpV0 _ => ⟨0xF000#16, 0xB000#16⟩
  | .rnd _ _ => ⟨0xF000#16, 0xC000#16⟩
  | .drw _ _ _ => ⟨0xF000#16, 0xD000#16⟩
  | .skp _ => ⟨0xF0FF#16, 0xE09E#16⟩
  | .sknp _ => ⟨0xF0FF#16, 0xE0A1#16⟩
  | .ldVxDt _ => ⟨0xF0FF#16, 0xF007#16⟩
  | .ldVxK _ => ⟨0xF0FF#16, 0xF00A#16⟩
  | .ldDtVx _ => ⟨0xF0FF#16, 0xF015#16⟩
  | .ldStVx _ => ⟨0xF0FF#16, 0xF018#16⟩
  | .addIVx _ => ⟨0xF0FF#16, 0xF01E#16⟩
  | .ldFVx _ => ⟨0xF0FF#16, 0xF029#16⟩
  | .ldBVx _ => ⟨0xF0FF#16, 0xF033#16⟩
  | .ldMemVx _ => ⟨0xF0FF#16, 0xF055#16⟩
  | .ldVxMem _ => ⟨0xF0FF#16, 0xF065#16⟩

/-- Rows 1 to 18 of the opcode map (R105). -/
def opcodeMapLow : List OpRow :=
  [⟨0xFFFF#16, 0x00E0#16⟩, ⟨0xFFFF#16, 0x00EE#16⟩, ⟨0xF000#16, 0x1000#16⟩, ⟨0xF000#16, 0x2000#16⟩,
   ⟨0xF000#16, 0x3000#16⟩, ⟨0xF000#16, 0x4000#16⟩, ⟨0xF00F#16, 0x5000#16⟩, ⟨0xF000#16, 0x6000#16⟩,
   ⟨0xF000#16, 0x7000#16⟩, ⟨0xF00F#16, 0x8000#16⟩, ⟨0xF00F#16, 0x8001#16⟩, ⟨0xF00F#16, 0x8002#16⟩,
   ⟨0xF00F#16, 0x8003#16⟩, ⟨0xF00F#16, 0x8004#16⟩, ⟨0xF00F#16, 0x8005#16⟩, ⟨0xF00F#16, 0x8006#16⟩,
   ⟨0xF00F#16, 0x8007#16⟩, ⟨0xF00F#16, 0x800E#16⟩]

/-- Rows 19 to 34 of the opcode map (R105). -/
def opcodeMapHigh : List OpRow :=
  [⟨0xF00F#16, 0x9000#16⟩, ⟨0xF000#16, 0xA000#16⟩, ⟨0xF000#16, 0xB000#16⟩, ⟨0xF000#16, 0xC000#16⟩,
   ⟨0xF000#16, 0xD000#16⟩, ⟨0xF0FF#16, 0xE09E#16⟩, ⟨0xF0FF#16, 0xE0A1#16⟩, ⟨0xF0FF#16, 0xF007#16⟩,
   ⟨0xF0FF#16, 0xF00A#16⟩, ⟨0xF0FF#16, 0xF015#16⟩, ⟨0xF0FF#16, 0xF018#16⟩, ⟨0xF0FF#16, 0xF01E#16⟩,
   ⟨0xF0FF#16, 0xF029#16⟩, ⟨0xF0FF#16, 0xF033#16⟩, ⟨0xF0FF#16, 0xF055#16⟩, ⟨0xF0FF#16, 0xF065#16⟩]

/-- The 34 rows of the opcode map, in its order (R105). -/
def opcodeMap : List OpRow := opcodeMapLow ++ opcodeMapHigh

end Sys2Proof
end

