-- ==== Sys2Proof/Machine/Defaults.lean ====
section
/-! DEFINITION. The default values the spec gives to the parameters of 00_scope.md R8, the font of 70_reset_and_hazards.md R391
among them, and what memory holds after a reset (10_state.md R48). -/

namespace Sys2Proof

/-- Glyphs 0 to 7, five rows each, top to bottom, bit 7 leftmost (R391). -/
def fontLow : Vector Byte 40 :=
  #v[0xF0, 0x90, 0x90, 0x90, 0xF0,  0x20, 0x60, 0x20, 0x20, 0x70,
     0xF0, 0x10, 0xF0, 0x80, 0xF0,  0xF0, 0x10, 0xF0, 0x10, 0xF0,
     0x90, 0x90, 0xF0, 0x10, 0x10,  0xF0, 0x80, 0xF0, 0x10, 0xF0,
     0xF0, 0x80, 0xF0, 0x90, 0xF0,  0xF0, 0x10, 0x20, 0x40, 0x40]

/-- Glyphs 8 to F (R391). -/
def fontHigh : Vector Byte 40 :=
  #v[0xF0, 0x90, 0xF0, 0x90, 0xF0,  0xF0, 0x90, 0xF0, 0x10, 0xF0,
     0xF0, 0x90, 0xF0, 0x90, 0x90,  0xE0, 0x90, 0xE0, 0x90, 0xE0,
     0xF0, 0x80, 0x80, 0x80, 0xF0,  0xE0, 0x90, 0x90, 0x90, 0xE0,
     0xF0, 0x80, 0xF0, 0x80, 0xF0,  0xF0, 0x80, 0xF0, 0x80, 0x80]

/-- PRESUMED (log 6), unsafe. The default of FONT_DATA: the table of R391, which the spec takes from general knowledge (D16). -/
def defaultFont : Vector Byte 80 := fontLow ++ fontHigh

/-- The parameters at their defaults (R8); DESIGN CHOICE (log 5). Those with no default there are constants with no body. -/
def defaultConfig : Config where
  shiftSource := .vy
  keyWait := .untilRelease
  stackDepth := none
  fontData := defaultFont
  fontWritable := false
  vfOrder := .textOrder
  delayMin := Config.openDelayMin
  delayMax := Config.openDelayMax
  delayInit := Config.openDelayInit
  frameCap := Config.openFrameCap
  beepCap := Config.openBeepCap

/-- FONT_BASE (R7): the address of glyph 0. -/
def fontBase : Nat := 0x050

/-- PROG_BASE (R7): the reset value of PC and the load address of a ROM. -/
def progBase : Nat := 0x200

/-- MEM_SIZE (R7). -/
def memSize : Nat := 4096

/-- MAX_ROM (R7): 4096 - 0x200 bytes. -/
def maxRom : Nat := memSize - progBase

/-- Whether a location is one of the 80 bytes of the font, 0x050 to 0x09F (20_memory.md R77). -/
def inFont (l : Nat) : Bool := decide (0x050 ≤ l) && decide (l ≤ 0x09F)

/-- What the location `l` holds after a reset (10_state.md R48): FONT_DATA in the font range, 0 elsewhere. It is what an
address that the memory list does not name reads as. -/
def resetByte (c : Config) (l : Nat) : Byte :=
  if inFont l then c.fontData.toList.getD (l - fontBase) 0 else 0

end Sys2Proof
end

