-- ==== Sys2Proof/Machine/State.lean ====
section
/-! DEFINITION. The state of the block (10_state.md R47), its surroundings (60_exceptions.md R350), why a step can stop, and the
state after reset (R48). -/

namespace Sys2Proof.Machine

/-- Memory: the bytes that differ from the reset contents, by address (10_state.md R45). Its canonical form is `Memory.wf`. -/
abbrev Memory := List Host.Cell

/-- The display: 32 rows of 64 pixels, row 0 first (10_state.md R38). -/
abbrev Display := Vector (Vector Bool 64) 32

/-- The cause field of the fault record (10_state.md R43). -/
inductive Cause where
  | none
  | emptyStackReturn
  | unrecognizedOpcode
  | stackOverflow
  deriving DecidableEq, Repr

/-- The fault record: cause, address of the faulting word, the word (10_state.md R43). -/
structure FaultRecord where
  cause : Cause
  pc : Word
  opcode : Word
  deriving DecidableEq, Repr

/-- The cleared fault record: NONE, 0, 0 (10_state.md R43). -/
def FaultRecord.clear : FaultRecord := ⟨.none, 0, 0⟩

/-- An output event of the block (60_exceptions.md R350 to R354). -/
inductive Event where
  | frame (d : Display)
  | beep (on : Bool)
  | fatal (cause : Cause) (pc opcode : Word)
  deriving DecidableEq, Repr

/-- The result of a LOAD or a STATUS (60_exceptions.md R350, R359, R360). -/
inductive Reply where
  | loadOk
  | loadTooLarge
  | status (running blocked : Bool) (waitKey : Key) (fault : FaultRecord) (delay : Nat)
  deriving DecidableEq, Repr

/-- What moves when no transaction is pending: the ENGINE, or whichever transition the free value `Config.scheduled` names
(DESIGN CHOICE, log 1). -/
inductive Scheduler where
  | engine
  | free
  deriving DecidableEq, Repr

/-- An output channel (10_state.md R46(b), 60_exceptions.md R353): the undelivered events, oldest first, and those its consumer
has taken, oldest first. -/
structure Channel (α : Type) where
  pending : List α
  delivered : List α
  deriving DecidableEq, Repr

/-- A channel through which nothing has gone. -/
def Channel.empty {α : Type} : Channel α := ⟨[], []⟩

/-- What stands between the block and its surroundings. The channels are the spec's; the rest is the model's own
(DESIGN CHOICE, log 1, 2, 3, 7). -/
structure Env where
  /-- The transactions to come, oldest first (20_memory.md R81). -/
  inputs : List Transaction
  /-- What moves when none is to come. -/
  unscheduled : Scheduler
  /-- How many transitions the free value has named: its counter. -/
  turn : Nat
  /-- The random bytes the HOST has supplied for the CXNN to come (42_alu.md R221, 60_exceptions.md R361). -/
  draws : List Byte
  /-- How many CXNN found no supplied byte. -/
  drawn : Nat
  /-- The output trace: every event offered, oldest first (60_exceptions.md R350). -/
  trace : List Event
  /-- The results given to the HOST, oldest first. -/
  replies : List Reply
  frames : Channel Display
  beeps : Channel Bool
  deriving DecidableEq, Repr

/-- Nothing scheduled, supplied, offered, answered or delivered yet. -/
def Env.empty : Env := ⟨[], .free, 0, [], 0, [], [], .empty, .empty⟩

/-- The whole state (10_state.md R47), with the parameters of the machine (00_scope.md R8) and its surroundings. -/
structure State where
  /-- Memory (R45). -/
  mem : Memory
  /-- V0 to VF (R30). -/
  v : Vector Byte 16
  /-- The index register I (R33). -/
  i : Word
  /-- The program counter (R34). -/
  pc : Word
  /-- The call stack, its top first (R35). -/
  stack : List Word
  /-- The display (R38). -/
  disp : Display
  /-- The key state (R39): true is pressed. -/
  keys : Vector Bool 16
  /-- The delay timer (R37). -/
  dt : Byte
  /-- The sound timer (R37). -/
  st : Byte
  /-- R40. -/
  running : Bool
  /-- R41. -/
  blocked : Bool
  /-- `wait_key` (R42). -/
  waitKey : Key
  /-- The fault record (R43). -/
  fault : FaultRecord
  /-- The pacing delay (R44), unsigned (00_scope.md R11). -/
  delay : Nat
  /-- The parameters (R8). -/
  cfg : Config
  /-- Channels, inputs and outputs. -/
  env : Env
  deriving DecidableEq, Repr

/-- Why a step stops with a fault: never. Every error of the spec is a next state (60_exceptions.md R331, R335), and every
instruction's semantics is total (40_cycle.md R148), so no constructor stands here. -/
inductive Fault where
  deriving DecidableEq, Repr

/-- Why a step gives no meaning. -/
inductive Refusal where
  /-- An arm of `exec` that has no meaning yet. Raised by no arm: every instruction has its meaning. Safe. -/
  | notModelled (mnemonic : String)
  deriving DecidableEq, Repr

/-- The `INIT` column of 10_state.md R48, for the parameters `c`, in the surroundings `e`. -/
def State.initial (c : Config) (e : Env) : State where
  mem := []
  v := Vector.replicate 16 0
  i := 0
  pc := 0x200
  stack := []
  disp := Vector.replicate 32 (Vector.replicate 64 false)
  keys := Vector.replicate 16 false
  dt := 0
  st := 0
  running := false
  blocked := false
  waitKey := 0
  fault := .clear
  delay := c.delayInit
  cfg := c
  env := e

/-- The machine right after the power-on reset, with the parameters at their defaults (R48, 70_reset_and_hazards.md R390, R8). -/
def State.reset : State := State.initial defaultConfig .empty

end Sys2Proof.Machine
end

