-- ==== Sys2Proof/Machine/Ops.lean ====
section
/-! DEFINITION. The named operations over memory, registers, stack, channels and the fault record that every meaning is written
in (00_scope.md R13), and the fatal halt (60_exceptions.md R331). -/

namespace Sys2Proof.Machine

/-! ### Memory (20_memory.md) -/

/-- The canonical form: addresses strictly rising and inside the 4096 bytes (R70), no entry that an unlisted address would
already give. -/
abbrev Memory.wf (c : Config) (m : Memory) : Prop :=
  m.Pairwise (fun p q => p.1 < q.1) ∧ ∀ p ∈ m, p.1 < memSize ∧ p.2 ≠ resetByte c p.1

/-- The byte at location `l`. -/
def Memory.get (c : Config) : Memory → Nat → Byte
  | [], l => resetByte c l
  | (a, b) :: m, l => if a = l then b else Memory.get c m l

/-- Memory with the byte `x` at location `l`, in canonical form. -/
def Memory.put (c : Config) : Memory → Nat → Byte → Memory
  | [], l, x => if x = resetByte c l then [] else [(l, x)]
  | (a, b) :: m, l, x =>
    if a < l then (a, b) :: Memory.put c m l x
    else if a = l then (if x = resetByte c l then m else (l, x) :: m)
    else if x = resetByte c l then (a, b) :: m else (l, x) :: (a, b) :: m

/-- `loc(a)`, the array location an address reaches (R71). -/
def loc (a : Nat) : Nat := a % memSize

/-- `MemRead(a, 1)` (R72). -/
def State.memRead (s : State) (a : Nat) : Byte := Memory.get s.cfg s.mem (loc a)

/-- Whether a write to an address is ignored: the font range, unless FONT_WRITABLE (R73). -/
def State.writeIgnored (s : State) (a : Nat) : Bool := !s.cfg.fontWritable && inFont (loc a)

/-- `MemWrite(a, 1, x)` (R73). -/
def State.memWrite (s : State) (a : Nat) (x : Byte) : State :=
  if s.writeIgnored a then s else { s with mem := Memory.put s.cfg s.mem (loc a) x }

/-- `Fetch(p)`: the byte at `p` is the high byte of the word, the byte at `p + 1` the low byte (R74). -/
def State.fetchWord (s : State) (p : Word) : Word := wordOfBytes (s.memRead p.toNat) (s.memRead (p.toNat + 1))

/-! ### Registers (10_state.md) -/

/-- `V[x]` (R30). -/
def State.readV (s : State) (x : Reg) : Byte := s.v[x]

/-- `V[x] <- b` (R30). -/
def State.writeV (s : State) (x : Reg) (b : Byte) : State := { s with v := s.v.set x.val b x.isLt }

/-- `I <- w` (R33). -/
def State.setI (s : State) (w : Word) : State := { s with i := w }

/-- `PC <- w` (R34). -/
def State.setPc (s : State) (w : Word) : State := { s with pc := w }

/-- `DT <- b` (R37). -/
def State.setDt (s : State) (b : Byte) : State := { s with dt := b }

/-- `ST <- b` (R37). -/
def State.setSt (s : State) (b : Byte) : State := { s with st := b }

/-- The display becomes `d` (R38). -/
def State.setDisp (s : State) (d : Display) : State := { s with disp := d }

/-- The call stack becomes `k`, its top first (R35). -/
def State.setStack (s : State) (k : List Word) : State := { s with stack := k }

/-- `keys[k]` (R39). -/
def State.key (s : State) (k : Key) : Bool := s.keys[k]

/-- `disp[r][c]` (R38). -/
def Display.pixel (d : Display) (r : Fin 32) (c : Fin 64) : Bool := d[r][c]

/-- The display with `disp[r][c]` inverted. -/
def Display.flip (d : Display) (r : Fin 32) (c : Fin 64) : Display :=
  d.set r.val (d[r].set c.val (!d[r][c]) c.isLt) r.isLt

/-- The display with every pixel 0. -/
def Display.clear : Display := Vector.replicate 32 (Vector.replicate 64 false)

/-! ### Program counter (40_cycle.md) -/

/-- `PC <- (PC + 2) mod 2^16`: the fetch advance (R142), and the skip of the next instruction (R146). -/
def State.advance (s : State) : State := s.setPc (s.pc + 2)

/-- "skip next instruction" (R146). -/
def State.skipIf (s : State) (cond : Bool) : State := if cond then s.advance else s

/-- `a`, the address the instruction being executed was fetched from: PC has since been advanced by 2 (R142). -/
def State.fetchedAt (s : State) : Word := s.pc - 2

/-- Whether one more entry would exceed a finite STACK_DEPTH (10_state.md R36). -/
def State.stackFull (s : State) : Bool :=
  match s.cfg.stackDepth with
  | none => false
  | some d => decide (d ≤ s.stack.length)

/-! ### Outputs (60_exceptions.md R350 to R354) -/

/-- Offer an event to a channel of capacity `cap` (R353): it is queued where there is room; otherwise, or when the consumer is
gone, an event is dropped. It never blocks and never fails. -/
def Channel.offer {α : Type} (cap : Nat) (loss : Loss) (ch : Channel α) (x : α) : Channel α :=
  match loss with
  | .consumerGone => ch
  | .dropNewest => if ch.pending.length < cap then { ch with pending := ch.pending ++ [x] } else ch
  | .dropOldest =>
    if ch.pending.length < cap then { ch with pending := ch.pending ++ [x] }
    else { ch with pending := (ch.pending ++ [x]).tail }

/-- The consumer takes the oldest undelivered event, if there is one (R353, R361). -/
def Channel.take {α : Type} (ch : Channel α) : Channel α :=
  match ch.pending with
  | [] => ch
  | x :: rest => ⟨rest, ch.delivered ++ [x]⟩

/-- Append an event to the output trace (R350). -/
def State.emit (s : State) (e : Event) : State := { s with env := { s.env with trace := s.env.trace ++ [e] } }

/-- What becomes of the event offered next: a free value (R353; DESIGN CHOICE, log 3, safe). -/
def State.nextLoss (s : State) : Loss := Config.loss s.env.trace.length

/-- `PublishFrame()` (44_display.md R270): offer a copy of the display. -/
def State.publishFrame (s : State) : State :=
  { s with env := { s.env with
      trace := s.env.trace ++ [.frame s.disp]
      frames := s.env.frames.offer s.cfg.frameCap s.nextLoss s.disp } }

/-- `EmitBeep(b)` (R352). -/
def State.emitBeep (s : State) (b : Bool) : State :=
  { s with env := { s.env with
      trace := s.env.trace ++ [.beep b]
      beeps := s.env.beeps.offer s.cfg.beepCap s.nextLoss b } }

/-- The result of a transaction, given to the HOST (R350; log 7). -/
def State.reply (s : State) (r : Reply) : State := { s with env := { s.env with replies := s.env.replies ++ [r] } }

/-! ### The random input (42_alu.md R221) -/

/-- `rand`: the byte the HOST supplied for this CXNN, or a free value (DESIGN CHOICE, log 2, safe). -/
def State.rand (s : State) : Byte :=
  match s.env.draws with
  | b :: _ => b
  | [] => Config.freeRand s.env.drawn

/-- The random byte is consumed: the next CXNN has a fresh one. -/
def State.consumeRand (s : State) : State :=
  match s.env.draws with
  | _ :: rest => { s with env := { s.env with draws := rest } }
  | [] => { s with env := { s.env with drawn := s.env.drawn + 1 } }

/-! ### The fatal halt (60_exceptions.md)

There is no trap, hence no handler, no mode change and no return from one (R337, R338): the way out is a LOAD, in
Machine/Transactions.lean. -/

/-- `raise Fatal(cause, pc = a, opcode = w)` (R331): `running` becomes 0, the fault record is written, one FATAL event is
offered, and nothing else changes. -/
def State.raiseFatal (s : State) (cause : Cause) (a w : Word) : State :=
  { s with running := false, fault := ⟨cause, a, w⟩ }.emit (.fatal cause a w)

end Sys2Proof.Machine
end

