-- ==== Sys2Proof/Machine/Operands.lean ====
section
/-! DEFINITION. The operand forms: addresses, I-relative bytes, register ranges, key indexes, glyphs, decimal digits and the
shift source (30_encoding.md R103, 43_index_memory.md R246, 45_keys_timers.md R307). -/

namespace Sys2Proof.Machine

/-- `zext_16(NNN)` (30_encoding.md R103). -/
def target (nnn : BitVec 12) : Word := nnn.setWidth 16

/-- The address of the k-th byte of an I-relative access, before reduction (43_index_memory.md R246). -/
def State.ea (s : State) (k : Nat) : Nat := s.i.toNat + k

/-- V0 to Vx in increasing order (43_index_memory.md R244, R245). -/
def regsUpTo (x : Reg) : List Reg := (List.finRange 16).filter (· ≤ x)

/-- I after FX55 or FX65 moved V0 to Vx: `(I + X + 1) mod 65536` (R244, R245). -/
def State.iAfter (s : State) (x : Reg) : Word := s.i + BitVec.ofNat 16 (x.val + 1)

/-- The key EX9E and EXA1 test: `V[X] & 0x0F` (45_keys_timers.md R307). -/
def keyIndex (b : Byte) : Key := (b.extractLsb' 0 4).toFin

/-- The least pressed key, if any: "scan keys in index order" (45_keys_timers.md R303). -/
def State.leastKey (s : State) : Option Key := (List.finRange 16).find? s.key

/-- The address of a glyph: `0x050 + V[X] * 5`, on all 8 bits of V[X] (43_index_memory.md R242). -/
def glyphAddr (b : Byte) : Word := BitVec.ofNat 16 (fontBase + b.toNat * 5)

/-- The decimal digits of a byte: hundreds, tens, ones (43_index_memory.md R243). -/
def decimalDigits (b : Byte) : List Byte :=
  [BitVec.ofNat 8 (b.toNat / 100), BitVec.ofNat 8 (b.toNat / 10 % 10), BitVec.ofNat 8 (b.toNat % 10)]

/-- The operand of 8XY6 and 8XYE under SHIFT_SOURCE (42_alu.md R209, R211). -/
def State.shiftOperand (s : State) (x y : Reg) : Byte :=
  match s.cfg.shiftSource with
  | .vy => s.readV y
  | .vx => s.readV x

/-- The row `a mod 32` of the display (44_display.md R272). -/
def wrapRow (a : Nat) : Fin 32 := Fin.ofNat 32 a

/-- The column `a mod 64` of the display (44_display.md R272). -/
def wrapCol (a : Nat) : Fin 64 := Fin.ofNat 64 a

/-- Bit `7 - c` of a sprite byte: the pixel `c` columns right of the sprite's left edge (44_display.md R273). -/
def spriteBit (b : Byte) (c : Nat) : Bool := b.getLsbD (7 - c)

end Sys2Proof.Machine
end

