-- ==== Sys2Proof/Machine/Flags.lean ====
section
/-! DEFINITION. What VF receives (10_state.md R31, 42_alu.md R207 to R211, R220), and the order in which an instruction writes its
result and VF (40_cycle.md R147). -/

namespace Sys2Proof.Machine

/-- A condition as the value VF takes: 1 or 0. -/
def flag (b : Bool) : Byte := if b then 1 else 0

/-- 8XY4: the exact sum exceeds 255 (42_alu.md R207). -/
def carries (a b : Byte) : Bool := decide (255 < a.toNat + b.toNat)

/-- 8XY5, 8XY7: the minuend `a` is at least the subtrahend `b`, so no borrow (42_alu.md R208, R210). -/
def noBorrow (a b : Byte) : Bool := decide (b.toNat ≤ a.toNat)

/-- 8XY6: the bit shifted out on the right (42_alu.md R209). -/
def lowBit (t : Byte) : Bool := t.getLsbD 0

/-- 8XYE: the bit shifted out on the left (42_alu.md R211). -/
def highBit (t : Byte) : Bool := t.getLsbD 7

/-- Write the result, then the flag: 8XY4, 8XY5, 8XY7, under both values of VF_ORDER (42_alu.md R207). -/
def State.resultThenFlag (s : State) (x : Reg) (r : Byte) (f : Bool) : State := (s.writeV x r).writeV vf (flag f)

/-- Write the flag, then the result: 8XY6 and 8XYE under TEXT_ORDER (42_alu.md R209). -/
def State.flagThenResult (s : State) (x : Reg) (r : Byte) (f : Bool) : State := (s.writeV vf (flag f)).writeV x r

/-- The two writes of 8XY6 and 8XYE in the order of VF_ORDER (42_alu.md R209, R211). -/
def State.shiftResult (s : State) (x : Reg) (r : Byte) (f : Bool) : State :=
  match s.cfg.vfOrder with
  | .textOrder => s.flagThenResult x r f
  | .flagLast => s.resultThenFlag x r f

end Sys2Proof.Machine
end

