-- ==== Sys2Proof/Machine/Alu.lean ====
section
/-! DEFINITION. Register and arithmetic instructions: 6XNN, 7XNN, 8XY0 to 8XY7, 8XYE, CXNN (42_alu.md). Arithmetic is unsigned,
modulo 256 (R220). -/

namespace Sys2Proof.Machine

/-- 6XNN LD Vx, nn (R201). -/
def execLdImm (x : Reg) (nn : Byte) (s : State) : Host.Outcome State Fault Refusal := .next (s.writeV x nn)

/-- 7XNN ADD Vx, nn: no flag (R202). -/
def execAddImm (x : Reg) (nn : Byte) (s : State) : Host.Outcome State Fault Refusal :=
  .next (s.writeV x (s.readV x + nn))

/-- 8XY0 LD Vx, Vy (R203). -/
def execLdReg (x y : Reg) (s : State) : Host.Outcome State Fault Refusal := .next (s.writeV x (s.readV y))

/-- 8XY1 OR Vx, Vy: VF is no side effect (R204). -/
def execOrReg (x y : Reg) (s : State) : Host.Outcome State Fault Refusal :=
  .next (s.writeV x (s.readV x ||| s.readV y))

/-- 8XY2 AND Vx, Vy (R205). -/
def execAndReg (x y : Reg) (s : State) : Host.Outcome State Fault Refusal :=
  .next (s.writeV x (s.readV x &&& s.readV y))

/-- 8XY3 XOR Vx, Vy (R206). -/
def execXorReg (x y : Reg) (s : State) : Host.Outcome State Fault Refusal :=
  .next (s.writeV x (s.readV x ^^^ s.readV y))

/-- 8XY4 ADD Vx, Vy: VF is the carry (R207). -/
def execAddReg (x y : Reg) (s : State) : Host.Outcome State Fault Refusal :=
  .next (s.resultThenFlag x (s.readV x + s.readV y) (carries (s.readV x) (s.readV y)))

/-- 8XY5 SUB Vx, Vy: VF is "no borrow" (R208). -/
def execSub (x y : Reg) (s : State) : Host.Outcome State Fault Refusal :=
  .next (s.resultThenFlag x (s.readV x - s.readV y) (noBorrow (s.readV x) (s.readV y)))

/-- 8XY6 SHR Vx, Vy (R209). -/
def execShr (x y : Reg) (s : State) : Host.Outcome State Fault Refusal :=
  .next (s.shiftResult x (s.shiftOperand x y >>> 1) (lowBit (s.shiftOperand x y)))

/-- 8XY7 SUBN Vx, Vy: VF is "no borrow" (R210). -/
def execSubn (x y : Reg) (s : State) : Host.Outcome State Fault Refusal :=
  .next (s.resultThenFlag x (s.readV y - s.readV x) (noBorrow (s.readV y) (s.readV x)))

/-- 8XYE SHL Vx, Vy (R211). -/
def execShl (x y : Reg) (s : State) : Host.Outcome State Fault Refusal :=
  .next (s.shiftResult x (s.shiftOperand x y <<< 1) (highBit (s.shiftOperand x y)))

/-- CXNN RND Vx, nn: a fresh random byte under a mask (R212, R221). -/
def execRnd (x : Reg) (nn : Byte) (s : State) : Host.Outcome State Fault Refusal :=
  .next (s.consumeRand.writeV x (s.rand &&& nn))

end Sys2Proof.Machine
end

