-- ==== Sys2Proof/Machine/ControlFlow.lean ====
section
/-! DEFINITION. Control transfer: 00EE, 1NNN, 2NNN, 3XNN, 4XNN, 5XY0, 9XY0, BNNN (41_control_flow.md). Each meaning is the
execute phase: PC is already `a + 2` (40_cycle.md R142, R144). -/

namespace Sys2Proof.Machine

/-- 00EE RET: pop the stack into PC, or halt when it is empty (R171, 60_exceptions.md R332). -/
def execRet (s : State) : Host.Outcome State Fault Refusal :=
  match s.stack with
  | [] => .next (s.raiseFatal .emptyStackReturn s.fetchedAt (encode .ret))
  | w :: rest => .next ((s.setStack rest).setPc w)

/-- 1NNN JP nnn (R172). -/
def execJp (nnn : BitVec 12) (s : State) : Host.Outcome State Fault Refusal := .next (s.setPc (target nnn))

/-- 2NNN CALL nnn: push the return address and jump, or halt when a finite stack is full (R173, 60_exceptions.md R333). -/
def execCall (nnn : BitVec 12) (s : State) : Host.Outcome State Fault Refusal :=
  if s.stackFull then .next (s.raiseFatal .stackOverflow s.fetchedAt (encode (.call nnn)))
  else .next ((s.setStack (s.pc :: s.stack)).setPc (target nnn))

/-- 3XNN SE Vx, nn (R174). -/
def execSeImm (x : Reg) (nn : Byte) (s : State) : Host.Outcome State Fault Refusal :=
  .next (s.skipIf (s.readV x == nn))

/-- 4XNN SNE Vx, nn (R175). -/
def execSneImm (x : Reg) (nn : Byte) (s : State) : Host.Outcome State Fault Refusal :=
  .next (s.skipIf (s.readV x != nn))

/-- 5XY0 SE Vx, Vy (R176). -/
def execSeReg (x y : Reg) (s : State) : Host.Outcome State Fault Refusal :=
  .next (s.skipIf (s.readV x == s.readV y))

/-- 9XY0 SNE Vx, Vy (R177). -/
def execSneReg (x y : Reg) (s : State) : Host.Outcome State Fault Refusal :=
  .next (s.skipIf (s.readV x != s.readV y))

/-- BNNN JP V0, nnn: the sum keeps its 16 bits (R178). -/
def execJpV0 (nnn : BitVec 12) (s : State) : Host.Outcome State Fault Refusal :=
  .next (s.setPc (target nnn + (s.readV 0).setWidth 16))

end Sys2Proof.Machine
end

