-- ==== Sys2Proof/Machine/IndexMemory.lean ====
section
/-! DEFINITION. Index register and memory instructions: ANNN, FX1E, FX29, FX33, FX55, FX65 (43_index_memory.md). -/

namespace Sys2Proof.Machine

/-- Store bytes at increasing addresses from `a`, each address reduced on its own (20_memory.md R75, R71). -/
def State.storeBytes (s : State) (a : Nat) : List Byte → State
  | [] => s
  | b :: bs => (s.memWrite a b).storeBytes (a + 1) bs

/-- Load the registers of a list, in its order, from the bytes at `a + k` for register Vk (R245). -/
def State.loadRegs (s : State) (a : Nat) : List Reg → State
  | [] => s
  | k :: ks => (s.writeV k (s.memRead (a + k.val))).loadRegs a ks

/-- ANNN LD I, nnn (R240). -/
def execLdI (nnn : BitVec 12) (s : State) : Host.Outcome State Fault Refusal := .next (s.setI (target nnn))

/-- FX1E ADD I, Vx: wrapping at 16 bits, no flag (R241). -/
def execAddIVx (x : Reg) (s : State) : Host.Outcome State Fault Refusal :=
  .next (s.setI (s.i + (s.readV x).setWidth 16))

/-- FX29 LD F, Vx (R242). -/
def execLdFVx (x : Reg) (s : State) : Host.Outcome State Fault Refusal := .next (s.setI (glyphAddr (s.readV x)))

/-- FX33 LD B, Vx: the decimal digits at I, I + 1, I + 2 (R243). -/
def execLdBVx (x : Reg) (s : State) : Host.Outcome State Fault Refusal :=
  .next (s.storeBytes (s.ea 0) (decimalDigits (s.readV x)))

/-- FX55 LD [I], Vx: V0 to Vx to memory, then I moves past them (R244). -/
def execLdMemVx (x : Reg) (s : State) : Host.Outcome State Fault Refusal :=
  .next ((s.storeBytes (s.ea 0) ((regsUpTo x).map s.readV)).setI (s.iAfter x))

/-- FX65 LD Vx, [I]: V0 to Vx from memory, then I moves past them (R245). -/
def execLdVxMem (x : Reg) (s : State) : Host.Outcome State Fault Refusal :=
  .next ((s.loadRegs (s.ea 0) (regsUpTo x)).setI (s.iAfter x))

end Sys2Proof.Machine
end

