-- ==== Sys2Proof/Machine/KeysTimers.lean ====
section
/-! DEFINITION. Key and timer instructions: EX9E, EXA1, FX07, FX0A, FX15, FX18 (45_keys_timers.md). -/

namespace Sys2Proof.Machine

/-- FX0A found key `k`: the wait that FX0A_WAIT asks for (R303, R304). -/
def State.beginWait (s : State) (k : Key) : State :=
  match s.cfg.keyWait with
  | .none => s
  | .untilRelease => { s with blocked := true, waitKey := k }
  | .untilAnyChange => { s with blocked := true, waitKey := k }

/-- EX9E SKP Vx (R300, R307). -/
def execSkp (x : Reg) (s : State) : Host.Outcome State Fault Refusal :=
  .next (s.skipIf (s.key (keyIndex (s.readV x))))

/-- EXA1 SKNP Vx (R301, R307). -/
def execSknp (x : Reg) (s : State) : Host.Outcome State Fault Refusal :=
  .next (s.skipIf (!s.key (keyIndex (s.readV x))))

/-- FX07 LD Vx, DT (R302). -/
def execLdVxDt (x : Reg) (s : State) : Host.Outcome State Fault Refusal := .next (s.writeV x s.dt)

/-- FX0A LD Vx, K: the least pressed key, or PC back to this instruction (R303). -/
def execLdVxK (x : Reg) (s : State) : Host.Outcome State Fault Refusal :=
  match s.leastKey with
  | some k => .next ((s.writeV x (BitVec.ofNat 8 k.val)).beginWait k)
  | none => .next (s.setPc (s.pc - 2))

/-- FX15 LD DT, Vx (R305). -/
def execLdDtVx (x : Reg) (s : State) : Host.Outcome State Fault Refusal := .next (s.setDt (s.readV x))

/-- FX18 LD ST, Vx (R306). -/
def execLdStVx (x : Reg) (s : State) : Host.Outcome State Fault Refusal := .next (s.setSt (s.readV x))

end Sys2Proof.Machine
end

