-- ==== Sys2Proof/Machine/Screen.lean ====
section
/-! DEFINITION. Display instructions: 00E0, DXYN (44_display.md). -/

namespace Sys2Proof.Machine

/-- The display being drawn on, and whether a set pixel has been cleared so far (R272). -/
structure Canvas where
  disp : Display
  collision : Bool
  deriving DecidableEq, Repr

/-- XOR one set sprite bit onto the pixel at row `r`, column `c` (R272). -/
def Canvas.plot (cv : Canvas) (r : Fin 32) (c : Fin 64) : Canvas :=
  ⟨cv.disp.flip r c, cv.collision || cv.disp.pixel r c⟩

/-- Draw the columns of a list, each where the sprite byte `b` has its bit set, on row `r` from column `x0` (R272). -/
def Canvas.drawCols (cv : Canvas) (b : Byte) (r : Fin 32) (x0 : Nat) : List Nat → Canvas
  | [] => cv
  | c :: cs =>
    let cv' := if spriteBit b c then cv.plot r (wrapCol (x0 + c)) else cv
    cv'.drawCols b r x0 cs

/-- Draw the sprite bytes of a list, one display row each, from row `y0` down and from column `x0` (R272, R273). -/
def Canvas.drawRows (cv : Canvas) (y0 x0 : Nat) : List Byte → Canvas
  | [] => cv
  | b :: bs => (cv.drawCols b (wrapRow y0) x0 (List.range 8)).drawRows (y0 + 1) x0 bs

/-- The N sprite bytes at I, I + 1, ... (R272). -/
def State.sprite (s : State) (n : Nat) : List Byte := (List.range n).map (fun r => s.memRead (s.ea r))

/-- 00E0 CLS: clear the display and publish a frame (R271, R276). -/
def execCls (s : State) : Host.Outcome State Fault Refusal := .next (s.setDisp Display.clear).publishFrame

/-- DXYN DRW Vx, Vy, n: draw a sprite at column V[X], row V[Y], both read before VF is written; VF is the collision; publish
a frame (R272, R276). -/
def execDrw (x y : Reg) (n : Nat) (s : State) : Host.Outcome State Fault Refusal :=
  let cv := (Canvas.mk s.disp false).drawRows (s.readV y).toNat (s.readV x).toNat (s.sprite n)
  .next (((s.setDisp cv.disp).writeV vf (flag cv.collision)).publishFrame)

end Sys2Proof.Machine
end

