-- ==== Sys2Proof/Machine/Transactions.lean ====
section
/-! DEFINITION. The transitions of the TIMER and the HOST (60_exceptions.md R346 to R361, 70_reset_and_hazards.md R390 to R394).
Each is total and atomic (20_memory.md R81). -/

namespace Sys2Proof.Machine

/-- A counter decremented toward zero, never below (10_state.md R37). -/
def countDown (b : Byte) : Byte := if b = 0 then 0 else b - 1

/-- `TICK` (60_exceptions.md R346, R347), whatever `running` and `blocked` are (R349). -/
def State.tick (s : State) : State :=
  ({ s with dt := countDown s.dt, st := countDown s.st }).emitBeep (s.st != 0)

/-- Whether `KEY(k, p)` on a key that was `old` ends an FX0A block (60_exceptions.md R357). -/
def State.endsWait (s : State) (k : Key) (p old : Bool) : Bool :=
  match s.cfg.keyWait with
  | .none => false
  | .untilRelease => decide (k = s.waitKey) && !p
  | .untilAnyChange => old != p

/-- `KEY(k, p)`: the flag, then the wait test (60_exceptions.md R356, R357). -/
def State.keyEvent (s : State) (k : Key) (p : Bool) : State :=
  { s with keys := s.keys.set k.val p k.isLt, blocked := s.blocked && !s.endsWait k p (s.key k) }

/-- The cells of a ROM laid out from address `a` on, those equal to the reset contents left out. -/
def romCells (c : Config) : Nat → List Byte → Memory
  | _, [] => []
  | a, b :: bs => if b = resetByte c a then romCells c (a + 1) bs else (a, b) :: romCells c (a + 1) bs

/-- An accepted `LOAD`: the full reset except `delay`, the ROM verbatim at 0x200, `running` = 1 (70_reset_and_hazards.md R392).
DESIGN CHOICE (log 11), unsafe: undelivered frame and beep events stay in their channels. -/
def State.loaded (s : State) (rom : List Byte) : State :=
  { State.initial s.cfg s.env with mem := romCells s.cfg progBase rom, running := true, delay := s.delay }

/-- `LOAD(rom)`: the size is tested before anything changes (70_reset_and_hazards.md R392, R393). -/
def State.load (s : State) (rom : List Byte) : State :=
  if rom.length ≤ maxRom then (s.loaded rom).reply .loadOk else s.reply .loadTooLarge

/-- `INIT`, the power-on reset (70_reset_and_hazards.md R390). DESIGN CHOICE (log 11), unsafe: undelivered frame and beep events
stay in their channels. -/
def State.powerOn (s : State) : State := State.initial s.cfg s.env

/-- The delay after `SPEED(delta)`: the signed sum clamped to the unsigned bounds, hence not negative (60_exceptions.md R358,
00_scope.md R11). -/
def State.clampedDelay (s : State) (delta : Int) : Nat :=
  (min (s.cfg.delayMax : Int) (max (s.cfg.delayMin : Int) (s.delay + delta))).toNat

/-- `SPEED(delta)`: clamped, not rejected (60_exceptions.md R358). -/
def State.speed (s : State) (delta : Int) : State := { s with delay := s.clampedDelay delta }

/-- `STATUS()`: reads the status registers (60_exceptions.md R359). -/
def State.status (s : State) : State := s.reply (.status s.running s.blocked s.waitKey s.fault s.delay)

/-- The frame consumer takes the oldest undelivered frame (60_exceptions.md R353, R361). -/
def State.takeFrame (s : State) : State := { s with env := { s.env with frames := s.env.frames.take } }

/-- The beep consumer takes the oldest undelivered beep (60_exceptions.md R353, R361). -/
def State.takeBeep (s : State) : State := { s with env := { s.env with beeps := s.env.beeps.take } }

end Sys2Proof.Machine
end

