-- ==== Sys2Proof/Machine/Cycle.lean ====
section
/-! DEFINITION. The ENGINE's transition (40_cycle.md R140 to R145), and performing one transaction of any agent. -/

namespace Sys2Proof.Machine

/-- Whether a `CYCLE` is idle (R141). -/
def State.idle (s : State) : Bool := !s.running || s.blocked

/-- The decode and execute phases on the word `w` fetched from `a`, PC already advanced (R143 to R145). -/
def executeWord (a w : Word) (s : State) : Host.Outcome State Fault Refusal :=
  match decodeWord w with
  | some i => exec i s
  | none => .next (s.raiseFatal .unrecognizedOpcode a w)

/-- `CYCLE` (R144). -/
def cycle (s : State) : Host.Outcome State Fault Refusal :=
  if s.idle then .next s else executeWord s.pc (s.fetchWord s.pc) s.advance

/-- One atomic transition (20_memory.md R81, 60_exceptions.md R350). -/
def perform (t : Transaction) (s : State) : Host.Outcome State Fault Refusal :=
  match t with
  | .cycle => cycle s
  | .tick => .next s.tick
  | .key k p => .next (s.keyEvent k p)
  | .load rom => .next (s.load rom)
  | .init => .next s.powerOn
  | .speed delta => .next (s.speed delta)
  | .status => .next s.status
  | .takeFrame => .next s.takeFrame
  | .takeBeep => .next s.takeBeep

/-- The transition that moves next (20_memory.md R81; DESIGN CHOICE, log 1): the oldest pending one; with none pending, the
ENGINE's or a free one, which leaves the ratio of ticks to cycles open (70_reset_and_hazards.md R405). -/
def State.nextTransaction (s : State) : Transaction :=
  match s.env.inputs with
  | t :: _ => t
  | [] =>
    match s.env.unscheduled with
    | .engine => .cycle
    | .free => Config.scheduled s.env.turn

/-- The turn counter once the transition that moves next has been chosen: a free choice uses up one turn. -/
def State.nextTurn (s : State) : Nat :=
  match s.env.inputs, s.env.unscheduled with
  | [], .free => s.env.turn + 1
  | [], .engine => s.env.turn
  | _ :: _, _ => s.env.turn

/-- The state once the transition that moves next has been chosen: it is pending no more. -/
def State.afterChoice (s : State) : State :=
  { s with env := { s.env with inputs := s.env.inputs.tail, turn := s.nextTurn } }

/-- A word stored at an address, high byte first, the font range not protected: how a program comes into memory from outside. -/
def State.placeWord (s : State) (p w : Word) : State :=
  let m := Memory.put s.cfg s.mem (loc p.toNat) (highByte w)
  { s with mem := Memory.put s.cfg m (loc (p.toNat + 1)) (lowByte w) }

/-- `s` made ready to run the word at PC as its next transition (log 9): what a LOAD would leave, as far as the fetch needs it,
with the ENGINE to move next. -/
def State.readyToFetch (s : State) : State :=
  { s with running := true, blocked := false, env := { s.env with inputs := [], unscheduled := .engine } }

end Sys2Proof.Machine
end

