-- ==== Sys2Proof/Machine/Step.lean ====
section
/-! DEFINITION. One step: one atomic transition of one agent (20_memory.md R81); and the host's placing of a word to run. -/

namespace Sys2Proof.Machine

/-- One step of the block: the transition that moves next. -/
def step (s : State) : Host.Outcome State Fault Refusal := perform s.nextTransaction s.afterChoice

/-- `s` with the word whose low `nbits` bits are those of `w` stored where the next cycle fetches, and that cycle next. -/
def State.withFetchWord (s : State) (nbits w : Nat) : State :=
  (s.placeWord s.pc (BitVec.ofNat 16 (w % 2 ^ nbits))).readyToFetch

end Sys2Proof.Machine
end

