-- ==== Sys2Proof/Safety.lean ====
section
/-! DEFINITION. The terms claims are stated in: the parts of the state and what "unchanged but" means, the write sets of
10_state.md R32, the invariants of the block, the quiescent conditions of 70_reset_and_hazards.md R397, and what a program
cannot observe. -/

namespace Sys2Proof.Machine

/-! ### Parts of the state and frames -/

/-- The pieces of state of 10_state.md R47, the parameters of 00_scope.md R8, and the surroundings. -/
inductive Part where
  | registers
  | index
  | programCounter
  | memory
  | stack
  | display
  | keys
  | delayTimer
  | soundTimer
  | running
  | blocked
  | waitKey
  | faultRecord
  | pacingDelay
  | parameters
  | inputs
  | scheduler
  | random
  | trace
  | frames
  | beeps
  | replies
  deriving DecidableEq, Repr

/-- The part reads the same in both states: memory byte by byte, the display pixel by pixel. -/
def Part.same (s t : State) : Part → Prop
  | .registers => ∀ r, t.readV r = s.readV r
  | .index => t.i = s.i
  | .programCounter => t.pc = s.pc
  | .memory => ∀ a, t.memRead a = s.memRead a
  | .stack => t.stack = s.stack
  | .display => ∀ r c, t.disp.pixel r c = s.disp.pixel r c
  | .keys => ∀ k, t.key k = s.key k
  | .delayTimer => t.dt = s.dt
  | .soundTimer => t.st = s.st
  | .running => t.running = s.running
  | .blocked => t.blocked = s.blocked
  | .waitKey => t.waitKey = s.waitKey
  | .faultRecord => t.fault = s.fault
  | .pacingDelay => t.delay = s.delay
  | .parameters => t.cfg = s.cfg
  | .inputs => t.env.inputs = s.env.inputs ∧ t.env.turn = s.env.turn
  | .scheduler => t.env.unscheduled = s.env.unscheduled
  | .random => t.env.draws = s.env.draws ∧ t.env.drawn = s.env.drawn
  | .trace => t.env.trace = s.env.trace
  | .frames => t.env.frames = s.env.frames
  | .beeps => t.env.beeps = s.env.beeps
  | .replies => t.env.replies = s.env.replies

/-- From `s` to `t` every part is unchanged but, perhaps, those named. -/
def UnchangedBut (changed : List Part) (s t : State) : Prop := ∀ p, p ∉ changed → p.same s t

/-- `i` completes in `s`, leaves `b` in Vx, and changes nothing else; PC stays where the fetch advance put it. -/
def WritesOnly (i : Instr) (s : State) (x : Reg) (b : Byte) : Prop :=
  ∃ t, exec i s = .next t ∧ t.readV x = b ∧ (∀ r, r ≠ x → t.readV r = s.readV r) ∧ UnchangedBut [.registers] s t

/-- `i` completes in `s`, skips the next instruction exactly when `cond` holds (40_cycle.md R146), and changes nothing else. -/
def SkipsWhen (i : Instr) (s : State) (cond : Prop) : Prop :=
  ∃ t, exec i s = .next t ∧ (cond → t.pc = s.pc + 2) ∧ (¬cond → t.pc = s.pc) ∧ UnchangedBut [.programCounter] s t

/-- From `s` to `t` the machine took the fatal halt of 60_exceptions.md R331, and nothing else happened but, perhaps, to the
parts named. -/
def FatalHalt (cause : Cause) (a w : Word) (besides : List Part) (s t : State) : Prop :=
  t.running = false ∧ t.fault = ⟨cause, a, w⟩ ∧ t.env.trace = s.env.trace ++ [.fatal cause a w] ∧
    UnchangedBut ([.running, .faultRecord, .trace] ++ besides) s t

/-- A store to address `a` is lost: the font range while FONT_WRITABLE is false (20_memory.md R73). -/
def StoreLost (c : Config) (a : Nat) : Prop := c.fontWritable = false ∧ 0x050 ≤ a % 4096 ∧ a % 4096 ≤ 0x09F

/-- From `s` to `t` the bytes `f 0`, ..., `f (n - 1)` were stored at I, I + 1, ...: each is there unless its address loses
stores, and every byte elsewhere reads as before (43_index_memory.md R246, 20_memory.md R71, R73). -/
def StoredAtIndex (n : Nat) (f : Nat → Byte) (s t : State) : Prop :=
  (∀ k, k < n → ¬StoreLost s.cfg (s.ea k) → t.memRead (s.ea k) = f k) ∧
  (∀ k, k < n → StoreLost s.cfg (s.ea k) → t.memRead (s.ea k) = s.memRead (s.ea k)) ∧
  ∀ a, (∀ k, k < n → a % 4096 ≠ s.ea k % 4096) → t.memRead a = s.memRead a

/-- `b` is what the address `a` reads as after the bytes `f 0`, ..., `f (n - 1)` were stored at I, I + 1, ... from `s`: the stored
byte where the store reaches the location of `a` and is not lost, the old byte elsewhere (20_memory.md R71, R73). -/
def ByteAfterStore (n : Nat) (f : Nat → Byte) (s : State) (a : Nat) (b : Byte) : Prop :=
  (∀ k, k < n → a % 4096 = s.ea k % 4096 → ¬StoreLost s.cfg a → b = f k) ∧
  ((StoreLost s.cfg a ∨ ∀ k, k < n → a % 4096 ≠ s.ea k % 4096) → b = s.memRead a)

/-- After that store PC stays, and the word the next fetch reads there, high byte first, is made of the stored bytes where the
store reaches PC or PC + 1 and of the old bytes elsewhere (20_memory.md R74, R88). -/
def FetchSeesStore (n : Nat) (f : Nat → Byte) (s t : State) : Prop :=
  t.pc = s.pc ∧ ∃ hi lo : Byte, (t.fetchWord t.pc).toNat = 256 * hi.toNat + lo.toNat ∧
    ByteAfterStore n f s s.pc.toNat hi ∧ ByteAfterStore n f s (s.pc.toNat + 1) lo

/-- From `s` to `t` one frame, the display of `t`, was offered: it ends the trace, and the channel keeps it where there is
room, or loses it, or loses its oldest frame for it when there is no room (60_exceptions.md R353, 44_display.md R270). -/
def FrameOffered (s t : State) : Prop :=
  t.env.trace = s.env.trace ++ [.frame t.disp] ∧ t.env.frames.delivered = s.env.frames.delivered ∧
  (t.env.frames.pending = s.env.frames.pending ∨
    (s.env.frames.pending.length < s.cfg.frameCap ∧ t.env.frames.pending = s.env.frames.pending ++ [t.disp]) ∨
    (s.cfg.frameCap ≤ s.env.frames.pending.length ∧ t.env.frames.pending = (s.env.frames.pending ++ [t.disp]).tail))

/-- From `s` to `t` one beep was offered: it ends the trace, and the channel keeps it where there is room, or loses it, or loses
its oldest beep for it when there is no room (60_exceptions.md R352, R353). -/
def BeepOffered (on : Bool) (s t : State) : Prop :=
  t.env.trace = s.env.trace ++ [.beep on] ∧ t.env.beeps.delivered = s.env.beeps.delivered ∧
  (t.env.beeps.pending = s.env.beeps.pending ∨
    (s.env.beeps.pending.length < s.cfg.beepCap ∧ t.env.beeps.pending = s.env.beeps.pending ++ [on]) ∨
    (s.cfg.beepCap ≤ s.env.beeps.pending.length ∧ t.env.beeps.pending = (s.env.beeps.pending ++ [on]).tail))

/-! ### The write sets of 10_state.md R32 -/

/-- The "writes" column of R32, as parts. FX0A writes PC only when it retries; 00EE and 2NNN write the fault state only when
they halt; CXNN also consumes its random byte, and the drawing instructions offer a frame. -/
def writeSet : Instr → List Part
  | .cls => [.display, .trace, .frames]
  | .ret | .call _ => [.programCounter, .stack, .running, .faultRecord, .trace]
  | .jp _ | .jpV0 _ => [.programCounter]
  | .seImm _ _ | .sneImm _ _ | .seReg _ _ | .sneReg _ _ | .skp _ | .sknp _ => [.programCounter]
  | .ldImm _ _ | .addImm _ _ | .ldReg _ _ | .orReg _ _ | .andReg _ _ | .xorReg _ _ => [.registers]
  | .addReg _ _ | .sub _ _ | .shr _ _ | .subn _ _ | .shl _ _ | .ldVxDt _ => [.registers]
  | .rnd _ _ => [.registers, .random]
  | .ldI _ | .addIVx _ | .ldFVx _ => [.index]
  | .drw _ _ _ => [.display, .registers, .trace, .frames]
  | .ldVxK _ => [.registers, .programCounter, .blocked, .waitKey]
  | .ldDtVx _ => [.delayTimer]
  | .ldStVx _ => [.soundTimer]
  | .ldBVx _ => [.memory]
  | .ldMemVx _ => [.memory, .index]
  | .ldVxMem _ => [.registers, .index]

/-- The registers R32 lets an instruction write: its VX, VF where "VF side" stands, V0 to VX for FX65. -/
def writtenRegs : Instr → List Reg
  | .ldImm x _ | .addImm x _ | .ldReg x _ | .orReg x _ | .andReg x _ | .xorReg x _ | .rnd x _ | .ldVxDt x | .ldVxK x => [x]
  | .addReg x _ | .sub x _ | .shr x _ | .subn x _ | .shl x _ => [x, vf]
  | .drw _ _ _ => [vf]
  | .ldVxMem x => regsUpTo x
  | .cls | .ret | .jp _ | .call _ | .seImm _ _ | .sneImm _ _ | .seReg _ _ | .sneReg _ _ | .ldI _ | .jpV0 _ | .skp _
  | .sknp _ | .ldDtVx _ | .ldStVx _ | .addIVx _ | .ldFVx _ | .ldBVx _ | .ldMemVx _ => []

/-- The instructions that draw: 00E0 and DXYN (44_display.md R276). -/
def draws : Instr → Bool
  | .cls | .drw _ _ _ => true
  | .ret | .jp _ | .call _ | .seImm _ _ | .sneImm _ _ | .seReg _ _ | .ldImm _ _ | .addImm _ _ | .ldReg _ _ | .orReg _ _
  | .andReg _ _ | .xorReg _ _ | .addReg _ _ | .sub _ _ | .shr _ _ | .subn _ _ | .shl _ _ | .sneReg _ _ | .ldI _ | .jpV0 _
  | .rnd _ _ | .skp _ | .sknp _ | .ldVxDt _ | .ldVxK _ | .ldDtVx _ | .ldStVx _ | .addIVx _ | .ldFVx _ | .ldBVx _
  | .ldMemVx _ | .ldVxMem _ => false

/-! ### Drawing, without the loops (44_display.md R273, R274) -/

/-- A set bit of the N-row sprite at I lands on the pixel at row `r`, column `c`, when drawn at V[x], V[y]. -/
def SpriteCovers (s : State) (x y : Reg) (n : Nat) (r : Fin 32) (c : Fin 64) : Prop :=
  ∃ k j : Nat, k < n ∧ j < 8 ∧ r.val = ((s.readV y).toNat + k) % 32 ∧ c.val = ((s.readV x).toNat + j) % 64 ∧
    (s.memRead (s.i.toNat + k)).getLsbD (7 - j) = true

/-! ### Events of a trace -/

/-- The frames of a trace, in order. -/
def framesOf (tr : List Event) : List Display :=
  tr.filterMap fun | .frame d => some d | .beep _ => none | .fatal _ _ _ => none

/-- The beeps of a trace, in order. -/
def beepsOf (tr : List Event) : List Bool :=
  tr.filterMap fun | .beep b => some b | .frame _ => none | .fatal _ _ _ => none

/-! ### Invariants -/

/-- What every step keeps. -/
structure State.Inv (s : State) : Prop where
  /-- Memory is in canonical form. -/
  memory : Memory.wf s.cfg s.mem
  /-- What a channel delivered and still holds is an in-order subsequence of what was offered (60_exceptions.md R353). -/
  framesOffered : (s.env.frames.delivered ++ s.env.frames.pending).Sublist (framesOf s.env.trace)
  beepsOffered : (s.env.beeps.delivered ++ s.env.beeps.pending).Sublist (beepsOf s.env.trace)
  /-- A channel holds at most its capacity (60_exceptions.md R353). -/
  framesRoom : s.env.frames.pending.length ≤ s.cfg.frameCap
  beepsRoom : s.env.beeps.pending.length ≤ s.cfg.beepCap
  /-- A finite stack holds at most STACK_DEPTH entries (10_state.md R36). -/
  stackRoom : ∀ d, s.cfg.stackDepth = some d → s.stack.length ≤ d
  /-- A recorded fault means a halted ENGINE, and no fault means a cleared record (10_state.md R43, 60_exceptions.md R339). -/
  faultHalts : s.fault.cause ≠ .none → s.running = false
  faultClear : s.fault.cause = .none → s.fault = .clear
  /-- The ENGINE blocks only while running, in a waiting variant, and while the reported key is held (10_state.md R41, R42). -/
  blockedRuns : s.blocked = true → s.running = true
  blockedWaits : s.blocked = true → s.cfg.keyWait ≠ .none
  blockedHolds : s.blocked = true → s.key s.waitKey = true

/-- "Addresses 0x050–0x09F hold immutable font glyphs after init": while FONT_WRITABLE is false they hold FONT_DATA
(20_memory.md R77). -/
def State.FontIntact (s : State) : Prop :=
  s.cfg.fontWritable = false → ∀ k : Fin 80, s.memRead (0x050 + k.val) = s.cfg.fontData[k]

/-! ### Quiescent conditions (70_reset_and_hazards.md R397) -/

/-- HALTED. -/
def State.Halted (s : State) : Prop := s.running = false

/-- SPIN: the word at PC is a jump to itself. -/
def State.Spin (s : State) : Prop :=
  s.running = true ∧ s.blocked = false ∧ s.pc.toNat ≤ 0x0FFF ∧ s.fetchWord s.pc = 0x1000#16 + s.pc

/-- BLOCKED. -/
def State.WaitsRelease (s : State) : Prop := s.running = true ∧ s.blocked = true

/-- KEYWAIT: the word at PC is an FX0A and every key is released. -/
def State.WaitsPress (s : State) : Prop :=
  s.running = true ∧ s.blocked = false ∧ (∃ x : Reg, (s.fetchWord s.pc).toNat = 0xF00A + x.val * 256) ∧
    ∀ k, s.key k = false

/-! ### Interleavings and fairness (20_memory.md R81, 70_reset_and_hazards.md R405) -/

/-- The state with another schedule: `l` pending, `sch` moving when nothing is, the turn counter at `k`. -/
def State.resched (s : State) (l : List Transaction) (sch : Scheduler) (k : Nat) : State :=
  { s with env := { s.env with inputs := l, unscheduled := sch, turn := k } }

/-- The transactions of the list, performed in its order, lead from `s` to `t`. -/
def Interleaves : List Transaction → State → State → Prop
  | [], s, t => t = s
  | tr :: l, s, t => ∃ u, perform tr s = .next u ∧ Interleaves l u t

/-- `n` steps lead from `s` to `t`. -/
def Steps : Nat → State → State → Prop
  | 0, s, t => t = s
  | n + 1, s, t => ∃ u, step s = .next u ∧ Steps n u t

/-- An infinite execution: `sched n` is the transition that leads from its state `n` to its state `n + 1`. -/
def Executes (sched : Nat → Transaction) (run : Nat → State) : Prop := ∀ n, perform (sched n) (run n) = .next (run (n + 1))

/-- "Both the TIMER and the ENGINE take infinitely many steps" (R405). -/
def Fair (sched : Nat → Transaction) : Prop :=
  ∀ n, (∃ m, n ≤ m ∧ sched m = .cycle) ∧ ∃ m, n ≤ m ∧ sched m = .tick

/-! ### What a program cannot observe -/

/-- The state without its outputs, its pacing delay, and the parameters only those depend on (70_reset_and_hazards.md R402,
10_state.md R44, R46). -/
def State.hideOutputs (s : State) : State :=
  { s with
    delay := 0
    cfg := { s.cfg with delayMin := 0, delayMax := 0, delayInit := 0, frameCap := 0, beepCap := 0 }
    env := { s.env with trace := [], replies := [], frames := .empty, beeps := .empty } }

end Sys2Proof.Machine
end

