-- ==== Sys2Proof/Certificates/Slice0/Obligations.lean ====
section
/-! DEFINITION. The statements for the provers. Each docstring names the rule of spec/ it formalises, or, where the rule rests on
the spec's own decision (D<n>) or on an entry of the assumption log, says so. -/

open Sys2Proof Sys2Proof.Machine

/-! ### Encoding (30_encoding.md) -/

/-- Decoding the bytes of a well-formed instruction, whatever follows them, gives it back with every operand. The patterns
are exact by the spec's choice D10. -/
def Obligations.DecodeOfEncodeIsTheInstruction : Prop :=
  ∀ (i : Instr) (rest : List Byte), i.wellFormed = true → decode (encodeBytes i ++ rest) = .instr i rest

/-- A word that decodes is the encoding of what it decodes to, which is well-formed: no word has two readings (D10). -/
def Obligations.EncodeOfDecodeIsTheWord : Prop :=
  ∀ (w : Word) (i : Instr), decodeWord w = some i → encode i = w ∧ i.wellFormed = true

/-- The decode procedure agrees with the mask and match columns of the opcode map: a word that decodes selects exactly one of
the 34 rows, that of its instruction, and a word that does not decode selects none (D10). -/
def Obligations.DecodeAgreesWithOpcodeMap : Prop :=
  ∀ w : Word, opcodeMap.filter (fun r => r.selects w) = ((decodeWord w).map opRow).toList

/-- The unrecognized words are exactly those of the table of the section "Unrecognized, reserved and hint encodings", which
the spec derives under its choice D10. -/
def Obligations.UnrecognizedWordsAreTheListedOnes : Prop :=
  ∀ w : Word, decodeWord w = none ↔
    (w.toNat < 0x1000 ∧ w.toNat ≠ 0x00E0 ∧ w.toNat ≠ 0x00EE) ∨
    (w.toNat / 4096 = 0x5 ∧ w.toNat % 16 ≠ 0) ∨
    (w.toNat / 4096 = 0x8 ∧ w.toNat % 16 ∈ [0x8, 0x9, 0xA, 0xB, 0xC, 0xD, 0xF]) ∨
    (w.toNat / 4096 = 0x9 ∧ w.toNat % 16 ≠ 0) ∨
    (w.toNat / 4096 = 0xE ∧ w.toNat % 256 ∉ [0x9E, 0xA1]) ∨
    (w.toNat / 4096 = 0xF ∧ w.toNat % 256 ∉ [0x07, 0x0A, 0x15, 0x18, 0x1E, 0x29, 0x33, 0x55, 0x65])

/-- R100: every instruction is one 16-bit word of two bytes, high byte first; what follows them plays no part. -/
def Obligations.EveryInstructionIsTwoBytesHighFirst : Prop :=
  ∀ (bytes : List Byte) (i : Instr) (rest : List Byte),
    decode bytes = .instr i rest ↔
      ∃ (hi lo : Byte) (w : Word), bytes = hi :: lo :: rest ∧ w.toNat = 256 * hi.toNat + lo.toNat ∧ decodeWord w = some i

/-- Words written out from the opcode map decode to the instructions they stand for, and 5121 to none: that nibble0 of 5XY0 must
be 0 is the spec's choice D10 (a sanity statement). -/
def Obligations.SampleWordsDecode : Prop :=
  decodeWord 0x00EE#16 = some .ret ∧ decodeWord 0x2ABC#16 = some (.call 0xABC) ∧
  decodeWord 0x8F1E#16 = some (.shl 15 1) ∧ decodeWord 0x7A9C#16 = some (.addImm 10 0x9C) ∧
  decodeWord 0xD12F#16 = some (.drw 1 2 15) ∧ decodeWord 0xE4A1#16 = some (.sknp 4) ∧
  decodeWord 0xF365#16 = some (.ldVxMem 3) ∧ decodeWord 0x5121#16 = none

/-! ### The cycle (40_cycle.md) and memory (20_memory.md) -/

/-- When the ENGINE moves and is not idle, and the two bytes at PC and PC + 1 decode to a well-formed instruction, the step is
the execute phase of that instruction with PC advanced by 2 modulo 2^16 (the wrap is the spec's choice D3). That choosing the
ENGINE takes its turn from the schedule, and changes nothing else, is the model's choice (log 1). -/
def Obligations.StepRunsTheDecodedInstruction : Prop :=
  ∀ (s : State) (i : Instr), s.nextTransaction = .cycle → s.running = true → s.blocked = false → i.wellFormed = true →
    decode [s.memRead s.pc.toNat, s.memRead (s.pc.toNat + 1)] = .instr i [] →
    step s = exec i (s.afterChoice.setPc (s.pc + 2)) ∧ UnchangedBut [.inputs] s s.afterChoice

/-- A cycle that is not running, or blocked, changes no state and offers no output (R141). That the step takes the ENGINE's turn
from the schedule, and that the state after the step is the state before it where the ENGINE is to move whenever nothing is
pending, is the model's choice (log 1). -/
def Obligations.IdleCycleDoesNothing : Prop :=
  ∀ s : State, s.nextTransaction = .cycle → (s.running = false ∨ s.blocked = true) →
    (∃ t, step s = .next t ∧ t.env.inputs = s.env.inputs.tail ∧ UnchangedBut [.inputs] s t) ∧
    (s.env.inputs = [] → s.env.unscheduled = .engine → step s = .next s)

/-- An unrecognized word ends the cycle in the fatal halt UNRECOGNIZED_OPCODE, with the address and the word recorded and PC
left past it. The record and the cause codes are the spec's choice D20, the exact patterns D10. -/
def Obligations.UnrecognizedWordHalts : Prop :=
  ∀ s : State, s.nextTransaction = .cycle → s.running = true → s.blocked = false → decodeWord (s.fetchWord s.pc) = none →
    ∃ t, step s = .next t ∧ t.pc = s.pc + 2 ∧
      FatalHalt .unrecognizedOpcode s.pc (s.fetchWord s.pc) [.programCounter, .inputs] s t

/-- A fetch combines the bytes at PC and PC + 1, high byte first, and every byte address is reduced modulo 4096 (the reduction
is the spec's choice D2). -/
def Obligations.FetchCombinesTwoBytes : Prop :=
  ∀ (s : State) (p : Word),
    (s.fetchWord p).toNat = 256 * (s.memRead p.toNat).toNat + (s.memRead (p.toNat + 1)).toNat ∧
    ∀ a, s.memRead a = s.memRead (a % 4096)

/-- A byte written is read back at every address that reaches its location, every other byte is unchanged, and a write to the
font range is lost unless FONT_WRITABLE (D2, D11). The premise is the canonical form of memory, an invariant. -/
def Obligations.WrittenByteIsReadBack : Prop :=
  ∀ (s : State) (a : Nat) (x : Byte), Memory.wf s.cfg s.mem →
    (¬StoreLost s.cfg a → ∀ b, b % 4096 = a % 4096 → (s.memWrite a x).memRead b = x) ∧
    (StoreLost s.cfg a → ∀ b, (s.memWrite a x).memRead b = s.memRead b) ∧
    (∀ b, b % 4096 ≠ a % 4096 → (s.memWrite a x).memRead b = s.memRead b) ∧
    UnchangedBut [.memory] s (s.memWrite a x)

/-- A program's own store is seen by the next fetch: after FX55, for every X, and after FX33, at every I, the word fetched next
combines the stored bytes where the store reaches PC or PC + 1 modulo 4096 and the old bytes elsewhere, a byte in the font range
being lost unless FONT_WRITABLE. The spec derives it (20_memory.md, "Instruction-fetch coherence"); D2 and D11 apply. -/
def Obligations.StoredCodeIsFetched : Prop :=
  ∀ (x : Reg) (s : State), Memory.wf s.cfg s.mem →
    (∃ t, exec (.ldMemVx x) s = .next t ∧ FetchSeesStore (x.val + 1) (fun k => s.readV (Fin.ofNat 16 k)) s t) ∧
    (∃ t, exec (.ldBVx x) s = .next t ∧
      FetchSeesStore 3 (fun k => BitVec.ofNat 8 ((s.readV x).toNat / 10 ^ (2 - k) % 10)) s t)

/-! ### Control transfer (41_control_flow.md) -/

/-- R172: 1NNN sets PC to NNN, zero-extended. -/
def Obligations.JumpSetsPc : Prop :=
  ∀ (nnn : BitVec 12) (s : State), (encode (.jp nnn)).toNat = 0x1000 + nnn.toNat ∧
    ∃ t, exec (.jp nnn) s = .next t ∧ t.pc.toNat = nnn.toNat ∧ UnchangedBut [.programCounter] s t

/-- BNNN sets PC to NNN + V0, always V0, in full 16 bits, unmasked (the fetch there is the spec's choice D2). -/
def Obligations.JumpOffsetAddsV0 : Prop :=
  ∀ (nnn : BitVec 12) (s : State), (encode (.jpV0 nnn)).toNat = 0xB000 + nnn.toNat ∧
    ∃ t, exec (.jpV0 nnn) s = .next t ∧ t.pc.toNat = nnn.toNat + (s.readV 0).toNat ∧ UnchangedBut [.programCounter] s t

/-- 2NNN pushes the address after it and jumps where the stack is unbounded or not yet full; on a full finite stack it takes the
fatal halt STACK_OVERFLOW, nothing is pushed and PC stays a + 2. The depth and that cause are the spec's choice D5, the fault
record D20. -/
def Obligations.CallPushesOrHalts : Prop :=
  ∀ (nnn : BitVec 12) (s : State), (encode (.call nnn)).toNat = 0x2000 + nnn.toNat ∧
    ((∀ d, s.cfg.stackDepth = some d → s.stack.length < d) →
      ∃ t, exec (.call nnn) s = .next t ∧ t.stack = s.pc :: s.stack ∧ t.pc.toNat = nnn.toNat ∧
        UnchangedBut [.programCounter, .stack] s t) ∧
    ∀ d, s.cfg.stackDepth = some d → d ≤ s.stack.length →
      ∃ t, exec (.call nnn) s = .next t ∧ FatalHalt .stackOverflow (s.pc - 2) (encode (.call nnn)) [] s t

/-- 00EE pops the stack into PC; with the stack empty it takes the fatal halt EMPTY_STACK_RETURN, and PC stays a + 2 (R171; the
fault record and its event are the spec's choice D20). -/
def Obligations.ReturnPopsTheStack : Prop :=
  encode .ret = 0x00EE#16 ∧
  (∀ (s : State) (w : Word) (rest : List Word), s.stack = w :: rest →
    ∃ t, exec .ret s = .next t ∧ t.pc = w ∧ t.stack = rest ∧ UnchangedBut [.programCounter, .stack] s t) ∧
  (∀ s : State, s.stack = [] →
    ∃ t, exec .ret s = .next t ∧ FatalHalt .emptyStackReturn (s.pc - 2) 0x00EE#16 [] s t)

/-- A call and a return, with the stack as the call left it, come back to the instruction after the call (derived from the
rules of 2NNN and 00EE; D5). -/
def Obligations.ReturnUndoesCall : Prop :=
  ∀ (nnn : BitVec 12) (s t u : State), (∀ d, s.cfg.stackDepth = some d → s.stack.length < d) →
    exec (.call nnn) s = .next t → u.stack = t.stack →
    ∃ v, exec .ret u = .next v ∧ v.pc = s.pc ∧ v.stack = s.stack

/-- R174, R175: 3XNN skips when VX equals NN, 4XNN when it does not. -/
def Obligations.ImmediateSkips : Prop :=
  ∀ (x : Reg) (nn : Byte) (s : State),
    ((encode (.seImm x nn)).toNat = 0x3000 + x.val * 256 + nn.toNat ∧
      SkipsWhen (.seImm x nn) s ((s.readV x).toNat = nn.toNat)) ∧
    ((encode (.sneImm x nn)).toNat = 0x4000 + x.val * 256 + nn.toNat ∧
      SkipsWhen (.sneImm x nn) s ((s.readV x).toNat ≠ nn.toNat))

/-- 5XY0 skips when VX equals VY, 9XY0 when it does not (that nibble0 must be 0 is the spec's choice D10). -/
def Obligations.RegisterSkips : Prop :=
  ∀ (x y : Reg) (s : State),
    ((encode (.seReg x y)).toNat = 0x5000 + x.val * 256 + y.val * 16 ∧
      SkipsWhen (.seReg x y) s ((s.readV x).toNat = (s.readV y).toNat)) ∧
    ((encode (.sneReg x y)).toNat = 0x9000 + x.val * 256 + y.val * 16 ∧
      SkipsWhen (.sneReg x y) s ((s.readV x).toNat ≠ (s.readV y).toNat))

/-- EX9E skips when the key named by the low nibble of VX is pressed, EXA1 when it is released (the low nibble is the spec's
choice D6). -/
def Obligations.KeySkips : Prop :=
  ∀ (x : Reg) (k : Key) (s : State), k.val = (s.readV x).toNat % 16 →
    ((encode (.skp x)).toNat = 0xE09E + x.val * 256 ∧ SkipsWhen (.skp x) s (s.key k = true)) ∧
    ((encode (.sknp x)).toNat = 0xE0A1 + x.val * 256 ∧ SkipsWhen (.sknp x) s (s.key k = false))

/-! ### Register and arithmetic instructions (42_alu.md) -/

/-- R201, R202: 6XNN loads NN, 7XNN adds NN modulo 256; neither sets a flag. -/
def Obligations.ByteImmediates : Prop :=
  ∀ (x : Reg) (nn : Byte) (s : State),
    ((encode (.ldImm x nn)).toNat = 0x6000 + x.val * 256 + nn.toNat ∧ WritesOnly (.ldImm x nn) s x nn) ∧
    ((encode (.addImm x nn)).toNat = 0x7000 + x.val * 256 + nn.toNat ∧
      WritesOnly (.addImm x nn) s x (BitVec.ofNat 8 (((s.readV x).toNat + nn.toNat) % 256)))

/-- R203 to R206: 8XY0 copies, 8XY1 to 8XY3 combine bitwise; VF is written only as the destination. -/
def Obligations.CopyAndBitwise : Prop :=
  ∀ (x y : Reg) (s : State),
    ((encode (.ldReg x y)).toNat = 0x8000 + x.val * 256 + y.val * 16 ∧ WritesOnly (.ldReg x y) s x (s.readV y)) ∧
    ((encode (.orReg x y)).toNat = 0x8001 + x.val * 256 + y.val * 16 ∧
      WritesOnly (.orReg x y) s x (BitVec.ofNat 8 ((s.readV x).toNat ||| (s.readV y).toNat))) ∧
    ((encode (.andReg x y)).toNat = 0x8002 + x.val * 256 + y.val * 16 ∧
      WritesOnly (.andReg x y) s x (BitVec.ofNat 8 ((s.readV x).toNat &&& (s.readV y).toNat))) ∧
    ((encode (.xorReg x y)).toNat = 0x8003 + x.val * 256 + y.val * 16 ∧
      WritesOnly (.xorReg x y) s x (BitVec.ofNat 8 ((s.readV x).toNat ^^^ (s.readV y).toNat)))

/-- 8XY4 adds modulo 256 and leaves the carry in VF, the flag written last: for X = F that order is the spec's choice D9. -/
def Obligations.AddSetsCarry : Prop :=
  ∀ (x y : Reg) (s : State),
    (encode (.addReg x y)).toNat = 0x8004 + x.val * 256 + y.val * 16 ∧
    ∃ t, exec (.addReg x y) s = .next t ∧
      (t.readV 15).toNat = (if 255 < (s.readV x).toNat + (s.readV y).toNat then 1 else 0) ∧
      (x ≠ 15 → (t.readV x).toNat = ((s.readV x).toNat + (s.readV y).toNat) % 256) ∧
      (∀ r, r ≠ x → r ≠ 15 → t.readV r = s.readV r) ∧ UnchangedBut [.registers] s t

/-- 8XY5 and 8XY7 subtract modulo 256 and leave "no borrow" in VF, the flag written last: for X = F that order is the spec's
choice D9. -/
def Obligations.SubtractSetsNoBorrow : Prop :=
  ∀ (x y : Reg) (s : State),
    ((encode (.sub x y)).toNat = 0x8005 + x.val * 256 + y.val * 16 ∧
      ∃ t, exec (.sub x y) s = .next t ∧
        (t.readV 15).toNat = (if (s.readV x).toNat ≥ (s.readV y).toNat then 1 else 0) ∧
        (x ≠ 15 → (t.readV x).toNat = ((s.readV x).toNat + 256 - (s.readV y).toNat) % 256) ∧
        (∀ r, r ≠ x → r ≠ 15 → t.readV r = s.readV r) ∧ UnchangedBut [.registers] s t) ∧
    ((encode (.subn x y)).toNat = 0x8007 + x.val * 256 + y.val * 16 ∧
      ∃ t, exec (.subn x y) s = .next t ∧
        (t.readV 15).toNat = (if (s.readV y).toNat ≥ (s.readV x).toNat then 1 else 0) ∧
        (x ≠ 15 → (t.readV x).toNat = ((s.readV y).toNat + 256 - (s.readV x).toNat) % 256) ∧
        (∀ r, r ≠ x → r ≠ 15 → t.readV r = s.readV r) ∧ UnchangedBut [.registers] s t)

/-- 8XY6 and 8XYE shift by one, filling with 0, and leave the bit shifted out in VF. Which register is shifted is SHIFT_SOURCE
(D7), and what VF holds for X = F is VF_ORDER (D9): the statement holds at every value of both. -/
def Obligations.ShiftsFollowTheParameters : Prop :=
  ∀ (x y : Reg) (s : State) (t₀ : Nat),
    (s.cfg.shiftSource = .vy → t₀ = (s.readV y).toNat) → (s.cfg.shiftSource = .vx → t₀ = (s.readV x).toNat) →
    ((encode (.shr x y)).toNat = 0x8006 + x.val * 256 + y.val * 16 ∧
      ∃ t, exec (.shr x y) s = .next t ∧
        (x ≠ 15 → (t.readV x).toNat = t₀ / 2 ∧ (t.readV 15).toNat = t₀ % 2) ∧
        (x = 15 → s.cfg.vfOrder = .textOrder → (t.readV 15).toNat = t₀ / 2) ∧
        (x = 15 → s.cfg.vfOrder = .flagLast → (t.readV 15).toNat = t₀ % 2) ∧
        (∀ r, r ≠ x → r ≠ 15 → t.readV r = s.readV r) ∧ UnchangedBut [.registers] s t) ∧
    ((encode (.shl x y)).toNat = 0x800E + x.val * 256 + y.val * 16 ∧
      ∃ t, exec (.shl x y) s = .next t ∧
        (x ≠ 15 → (t.readV x).toNat = t₀ * 2 % 256 ∧ (t.readV 15).toNat = t₀ / 128) ∧
        (x = 15 → s.cfg.vfOrder = .textOrder → (t.readV 15).toNat = t₀ * 2 % 256) ∧
        (x = 15 → s.cfg.vfOrder = .flagLast → (t.readV 15).toNat = t₀ / 128) ∧
        (∀ r, r ≠ x → r ≠ 15 → t.readV r = s.readV r) ∧ UnchangedBut [.registers] s t)

/-- CXNN leaves some byte under the mask NN in VX: the byte the HOST supplied for it, which is consumed, or, when none is
supplied, a byte of which nothing is said; the next CXNN draws afresh (the free input is the spec's choice D22; log 2). -/
def Obligations.RandomByteUnderMask : Prop :=
  ∀ (x : Reg) (nn : Byte) (s : State),
    (encode (.rnd x nn)).toNat = 0xC000 + x.val * 256 + nn.toNat ∧
    ∃ (t : State) (b : Byte), exec (.rnd x nn) s = .next t ∧
      (∀ j, (t.readV x).getLsbD j = (b.getLsbD j && nn.getLsbD j)) ∧
      (∀ b' rest, s.env.draws = b' :: rest → b = b' ∧ t.env.draws = rest ∧ t.env.drawn = s.env.drawn) ∧
      (s.env.draws = [] → t.env.draws = [] ∧ t.env.drawn = s.env.drawn + 1) ∧
      (∀ r, r ≠ x → t.readV r = s.readV r) ∧ UnchangedBut [.registers, .random] s t

/-! ### Index register and memory (43_index_memory.md) -/

/-- R240, R241, R242: ANNN loads I, FX1E adds VX to I modulo 65536 with no flag, FX29 points I at glyph VX, on all 8 bits. -/
def Obligations.IndexRegisterLoads : Prop :=
  ∀ (nnn : BitVec 12) (x : Reg) (s : State),
    ((encode (.ldI nnn)).toNat = 0xA000 + nnn.toNat ∧
      ∃ t, exec (.ldI nnn) s = .next t ∧ t.i.toNat = nnn.toNat ∧ UnchangedBut [.index] s t) ∧
    ((encode (.addIVx x)).toNat = 0xF01E + x.val * 256 ∧
      ∃ t, exec (.addIVx x) s = .next t ∧ t.i.toNat = (s.i.toNat + (s.readV x).toNat) % 65536 ∧
        UnchangedBut [.index] s t) ∧
    ((encode (.ldFVx x)).toNat = 0xF029 + x.val * 256 ∧
      ∃ t, exec (.ldFVx x) s = .next t ∧ t.i.toNat = 0x050 + (s.readV x).toNat * 5 ∧ UnchangedBut [.index] s t)

/-- FX33 stores the hundreds, tens and ones of VX at I, I + 1, I + 2 and leaves I; each address is reduced on its own (D2) and
a byte in the font range is lost unless FONT_WRITABLE (D11). -/
def Obligations.DecimalDigitsAreStored : Prop :=
  ∀ (x : Reg) (s : State), Memory.wf s.cfg s.mem →
    (encode (.ldBVx x)).toNat = 0xF033 + x.val * 256 ∧
    ∃ t, exec (.ldBVx x) s = .next t ∧
      StoredAtIndex 3 (fun k => BitVec.ofNat 8 ((s.readV x).toNat / 10 ^ (2 - k) % 10)) s t ∧
      UnchangedBut [.memory] s t

/-- FX55 stores V0 to VX at I, I + 1, ... and adds X + 1 to I modulo 65536 (D2, D11, D23). -/
def Obligations.RegistersAreStored : Prop :=
  ∀ (x : Reg) (s : State), Memory.wf s.cfg s.mem →
    (encode (.ldMemVx x)).toNat = 0xF055 + x.val * 256 ∧
    ∃ t, exec (.ldMemVx x) s = .next t ∧
      StoredAtIndex (x.val + 1) (fun k => s.readV (Fin.ofNat 16 k)) s t ∧
      t.i.toNat = (s.i.toNat + x.val + 1) % 65536 ∧ UnchangedBut [.memory, .index] s t

/-- FX65 loads V0 to VX from I, I + 1, ..., leaves the registers above X, and adds X + 1 to I modulo 65536 (D2, D23). -/
def Obligations.RegistersAreLoaded : Prop :=
  ∀ (x : Reg) (s : State),
    (encode (.ldVxMem x)).toNat = 0xF065 + x.val * 256 ∧
    ∃ t, exec (.ldVxMem x) s = .next t ∧
      (∀ k : Reg, k ≤ x → t.readV k = s.memRead (s.i.toNat + k.val)) ∧ (∀ k : Reg, x < k → t.readV k = s.readV k) ∧
      t.i.toNat = (s.i.toNat + x.val + 1) % 65536 ∧ UnchangedBut [.registers, .index] s t

/-- "FX55/FX65 round-trip": registers stored, then loaded from the same I in any state with that memory, are the original ones,
provided no stored byte was lost to the font range (95_test_vectors.md S9; D2, D11, D23). -/
def Obligations.StoreLoadRoundTrip : Prop :=
  ∀ (x : Reg) (s t u : State), Memory.wf s.cfg s.mem → (∀ k : Reg, k ≤ x → ¬StoreLost s.cfg (s.i.toNat + k.val)) →
    exec (.ldMemVx x) s = .next t → (∀ a, u.memRead a = t.memRead a) → u.i = s.i →
    ∃ v, exec (.ldVxMem x) u = .next v ∧ (∀ k : Reg, k ≤ x → v.readV k = s.readV k) ∧
      (∀ k : Reg, x < k → v.readV k = u.readV k)

/-! ### Display (44_display.md) -/

/-- 00E0 clears every pixel and publishes one frame (R271; one frame per execution is the spec's choice D13, what the channel
does with it D18). -/
def Obligations.ClearBlanksAndPublishes : Prop :=
  ∀ s : State, encode .cls = 0x00E0#16 ∧
    ∃ t, exec .cls s = .next t ∧ (∀ r c, t.disp.pixel r c = false) ∧ FrameOffered s t ∧
      UnchangedBut [.display, .trace, .frames] s t

/-- DXYN inverts exactly the pixels its sprite covers, wrapping on both axes, and leaves in VF whether a set pixel was cleared;
one frame is published, and I and memory stay. The bit and row order are the spec's choice D15, one frame per execution D13, what
the channel does with it D18. -/
def Obligations.DrawXorsTheSprite : Prop :=
  ∀ (x y : Reg) (n : Nat) (s : State), n < 16 →
    (encode (.drw x y n)).toNat = 0xD000 + x.val * 256 + y.val * 16 + n ∧
    ∃ t, exec (.drw x y n) s = .next t ∧
      (∀ r c, SpriteCovers s x y n r c → t.disp.pixel r c = !s.disp.pixel r c) ∧
      (∀ r c, ¬SpriteCovers s x y n r c → t.disp.pixel r c = s.disp.pixel r c) ∧
      ((∃ r c, SpriteCovers s x y n r c ∧ s.disp.pixel r c = true) → t.readV 15 = 1) ∧
      ((¬∃ r c, SpriteCovers s x y n r c ∧ s.disp.pixel r c = true) → t.readV 15 = 0) ∧
      (∀ r, r ≠ 15 → t.readV r = s.readV r) ∧ FrameOffered s t ∧
      UnchangedBut [.display, .registers, .trace, .frames] s t

/-- Drawing the same sprite twice at the same place restores the display, and the second draw reports a collision exactly when
the first turned some pixel on (the spec derives it; D15). -/
def Obligations.DrawTwiceRestores : Prop :=
  ∀ (x y : Reg) (n : Nat) (s t u : State), n < 16 → exec (.drw x y n) s = .next t →
    (∀ r c, u.disp.pixel r c = t.disp.pixel r c) → (∀ a, u.memRead a = s.memRead a) → u.i = s.i →
    u.readV x = s.readV x → u.readV y = s.readV y →
    ∃ w, exec (.drw x y n) u = .next w ∧ (∀ r c, w.disp.pixel r c = s.disp.pixel r c) ∧
      (w.readV 15 = 1 ↔ ∃ r c, s.disp.pixel r c = false ∧ t.disp.pixel r c = true)

/-- A frame is offered by every execution of 00E0 and DXYN, once each, and by no other instruction and no transaction (the
spec's choice D13). -/
def Obligations.OnlyDrawingOffersFrames : Prop :=
  (∀ (i : Instr) (s t : State), exec i s = .next t →
    framesOf t.env.trace = framesOf s.env.trace ++ (if draws i then [t.disp] else [])) ∧
  (∀ (tr : Transaction) (s t : State), tr ≠ .cycle → perform tr s = .next t →
    framesOf t.env.trace = framesOf s.env.trace)

/-! ### Keys and timers (45_keys_timers.md) -/

/-- R302: FX07 reads the delay timer. -/
def Obligations.DelayTimerIsRead : Prop :=
  ∀ (x : Reg) (s : State), (encode (.ldVxDt x)).toNat = 0xF007 + x.val * 256 ∧ WritesOnly (.ldVxDt x) s x s.dt

/-- R305, R306: FX15 sets the delay timer and FX18 the sound timer; neither emits a beep. -/
def Obligations.TimersAreSet : Prop :=
  ∀ (x : Reg) (s : State),
    ((encode (.ldDtVx x)).toNat = 0xF015 + x.val * 256 ∧
      ∃ t, exec (.ldDtVx x) s = .next t ∧ t.dt = s.readV x ∧ UnchangedBut [.delayTimer] s t) ∧
    ((encode (.ldStVx x)).toNat = 0xF018 + x.val * 256 ∧
      ∃ t, exec (.ldStVx x) s = .next t ∧ t.st = s.readV x ∧ UnchangedBut [.soundTimer] s t)

/-- FX0A with a key pressed leaves the least pressed index in VX and, in a waiting variant, blocks on it; PC stays past it. With no
key pressed it takes PC back by 2 modulo 2^16, to itself, and changes nothing else. The variants are the spec's choice D8, and
the statement holds in each; the wrap is D3. -/
def Obligations.KeyWaitReportsOrRetries : Prop :=
  ∀ (x : Reg) (s : State), (encode (.ldVxK x)).toNat = 0xF00A + x.val * 256 ∧
    (∀ k : Key, s.key k = true → (∀ j, j < k → s.key j = false) →
      ∃ t, exec (.ldVxK x) s = .next t ∧ (t.readV x).toNat = k.val ∧ (∀ r, r ≠ x → t.readV r = s.readV r) ∧
        (s.cfg.keyWait = .none → t.blocked = s.blocked ∧ t.waitKey = s.waitKey) ∧
        (s.cfg.keyWait ≠ .none → t.blocked = true ∧ t.waitKey = k) ∧
        UnchangedBut [.registers, .blocked, .waitKey] s t) ∧
    ((∀ k, s.key k = false) →
      ∃ t, exec (.ldVxK x) s = .next t ∧ t.pc + 2 = s.pc ∧ UnchangedBut [.programCounter] s t)

/-! ### The TIMER and the HOST (60_exceptions.md, 70_reset_and_hazards.md) -/

/-- A TICK decrements each timer toward zero, never below, and emits one beep, on exactly when ST was not 0 (R346, R347). That the
step takes the TICK from the pending transactions is the model's choice (log 1). -/
def Obligations.TickCountsDownAndBeeps : Prop :=
  ∀ s : State, s.nextTransaction = .tick →
    ∃ t, step s = .next t ∧ t.dt.toNat = s.dt.toNat - 1 ∧ t.st.toNat = s.st.toNat - 1 ∧
      t.env.trace = s.env.trace ++ [.beep (decide (s.st.toNat ≠ 0))] ∧ t.env.inputs = s.env.inputs.tail ∧
      UnchangedBut [.delayTimer, .soundTimer, .trace, .beeps, .inputs] s t

/-- A KEY writes one flag and then ends an FX0A block as FX0A_WAIT says (the wait test and its place are the spec's choices D8
and D24). That the step takes the KEY from the pending transactions is the model's choice (log 1). -/
def Obligations.KeyEventSetsFlagAndEndsWait : Prop :=
  ∀ (s : State) (k : Key) (p : Bool), s.nextTransaction = .key k p →
    ∃ t, step s = .next t ∧ t.key k = p ∧ (∀ j, j ≠ k → t.key j = s.key j) ∧ t.env.inputs = s.env.inputs.tail ∧
      (t.blocked = false ↔ s.blocked = false ∨ (s.cfg.keyWait = .untilRelease ∧ k = s.waitKey ∧ p = false) ∨
        (s.cfg.keyWait = .untilAnyChange ∧ s.key k ≠ p)) ∧
      UnchangedBut [.keys, .blocked, .inputs] s t

/-- An accepted LOAD is a full reset that keeps `delay`, puts the ROM verbatim at 0x200 over memory that is zero but for the
font, and starts the ENGINE at 0x200. What it does to the keys, to memory past the ROM and to the wait state are the spec's
choices D19 and D21, the cleared fault record D20, the kept delay D17. The model's choices are that the step takes the LOAD from
the pending transactions (log 1), that it answers OK to the HOST's log of results (log 7), and that undelivered events stay in
their channels (log 11). -/
def Obligations.LoadStartsTheProgram : Prop :=
  ∀ (s : State) (rom : List Byte), s.nextTransaction = .load rom → rom.length ≤ 3584 →
    ∃ t, step s = .next t ∧ (∀ r, t.readV r = 0) ∧ t.i = 0 ∧ t.pc = 0x200 ∧ t.stack = [] ∧
      (∀ r c, t.disp.pixel r c = false) ∧ (∀ k, t.key k = false) ∧ t.dt = 0 ∧ t.st = 0 ∧ t.running = true ∧
      t.blocked = false ∧ t.waitKey = 0 ∧ t.fault = ⟨.none, 0, 0⟩ ∧
      (∀ (j : Nat) (h : j < rom.length), t.memRead (0x200 + j) = rom[j]) ∧
      (∀ k : Fin 80, t.memRead (0x050 + k.val) = s.cfg.fontData[k]) ∧
      (∀ a, a < 4096 → (a < 0x050 ∨ (0x09F < a ∧ a < 0x200) ∨ 0x200 + rom.length ≤ a) → t.memRead a = 0) ∧
      t.env.replies = s.env.replies ++ [.loadOk] ∧ t.env.inputs = s.env.inputs.tail ∧
      ∀ p ∈ [Part.pacingDelay, .parameters, .scheduler, .random, .trace, .frames, .beeps], p.same s t

/-- A LOAD of more than 3584 bytes answers TOO_LARGE and changes no state of the block (the order of test and reset is the spec's
choice D28; the log of results is the model's, log 7, and so is that the step takes the LOAD from the pending transactions,
log 1). -/
def Obligations.OversizedLoadIsRejected : Prop :=
  ∀ (s : State) (rom : List Byte), s.nextTransaction = .load rom → 3584 < rom.length →
    ∃ t, step s = .next t ∧ t.env.replies = s.env.replies ++ [.loadTooLarge] ∧ t.env.inputs = s.env.inputs.tail ∧
      UnchangedBut [.replies, .inputs] s t

/-- INIT sets every piece of state to the INIT column of the reset table, from any state, and offers no output event (DT, ST and
the wait state are the spec's choice D21, the fault record D20, the delay's initial value the OPEN parameter of D17). The
model's choices are that the step takes the INIT from the pending transactions (log 1) and that undelivered events stay in
their channels (log 11). -/
def Obligations.InitResetsEverything : Prop :=
  ∀ s : State, s.nextTransaction = .init →
    ∃ t, step s = .next t ∧ (∀ r, t.readV r = 0) ∧ t.i = 0 ∧ t.pc = 0x200 ∧ t.stack = [] ∧
      (∀ r c, t.disp.pixel r c = false) ∧ (∀ k, t.key k = false) ∧ t.dt = 0 ∧ t.st = 0 ∧ t.running = false ∧
      t.blocked = false ∧ t.waitKey = 0 ∧ t.fault = ⟨.none, 0, 0⟩ ∧ t.delay = s.cfg.delayInit ∧
      (∀ k : Fin 80, t.memRead (0x050 + k.val) = s.cfg.fontData[k]) ∧
      (∀ a, a < 4096 → (a < 0x050 ∨ 0x09F < a) → t.memRead a = 0) ∧ t.env.inputs = s.env.inputs.tail ∧
      ∀ p ∈ [Part.parameters, .scheduler, .random, .trace, .frames, .beeps, .replies], p.same s t

/-- The state after reset: memory zero but for the font, PC at 0x200, everything else clear, not running (the reset table; DT, ST
and the wait state are the spec's choice D21, the fault record D20, the parameters' defaults those of 00_scope.md with the
font of D16). -/
def Obligations.ResetStateIsTheTable : Prop :=
  (∀ r, State.reset.readV r = 0) ∧ State.reset.i = 0 ∧ State.reset.pc = 0x200 ∧ State.reset.stack = [] ∧
  (∀ r c, State.reset.disp.pixel r c = false) ∧ (∀ k, State.reset.key k = false) ∧
  State.reset.dt = 0 ∧ State.reset.st = 0 ∧ State.reset.running = false ∧ State.reset.blocked = false ∧
  State.reset.waitKey = 0 ∧ State.reset.fault = ⟨.none, 0, 0⟩ ∧ State.reset.delay = State.reset.cfg.delayInit ∧
  (∀ k : Fin 80, State.reset.memRead (0x050 + k.val) = State.reset.cfg.fontData[k]) ∧
  (∀ a, a < 4096 → (a < 0x050 ∨ 0x09F < a) → State.reset.memRead a = 0) ∧
  State.reset.cfg.shiftSource = .vy ∧ State.reset.cfg.keyWait = .untilRelease ∧ State.reset.cfg.stackDepth = none ∧
  State.reset.cfg.fontWritable = false ∧ State.reset.cfg.vfOrder = .textOrder

/-- SPEED adds its delta to the pacing delay and clamps it to the bounds; STATUS answers the status registers; each changes
nothing else (the bounds are OPEN by D17; STATUS is the spec's choice D1, D20; the log of results is the model's, log 7, and so is
that the step takes the transaction from the pending ones, log 1). -/
def Obligations.SpeedClampsAndStatusReports : Prop :=
  (∀ (s : State) (delta : Int), s.nextTransaction = .speed delta →
    ∃ t, step s = .next t ∧ (t.delay : Int) = min (s.cfg.delayMax : Int) (max (s.cfg.delayMin : Int) (s.delay + delta)) ∧
      t.env.inputs = s.env.inputs.tail ∧ UnchangedBut [.pacingDelay, .inputs] s t) ∧
  (∀ s : State, s.nextTransaction = .status →
    ∃ t, step s = .next t ∧
      t.env.replies = s.env.replies ++ [.status s.running s.blocked s.waitKey s.fault s.delay] ∧
      t.env.inputs = s.env.inputs.tail ∧ UnchangedBut [.replies, .inputs] s t)

/-- A TICK offers its beep to the beep channel, which queues it in order, or loses it or its oldest beep; a consumer takes the
oldest undelivered event of its channel, or nothing, and changes nothing else of the block (channel buffering is the spec's
choice D18; the trace and the lists of delivered events are the model's, log 3). -/
def Obligations.ChannelsQueueInOrder : Prop :=
  ∀ s : State,
    (s.nextTransaction = .tick → ∃ t, step s = .next t ∧ BeepOffered (decide (0 < s.st.toNat)) s t) ∧
    (s.nextTransaction = .takeFrame →
      ∃ t, step s = .next t ∧ t.env.frames.delivered ++ t.env.frames.pending = s.env.frames.delivered ++ s.env.frames.pending ∧
        t.env.frames.pending = s.env.frames.pending.tail ∧ UnchangedBut [.frames, .inputs] s t) ∧
    (s.nextTransaction = .takeBeep →
      ∃ t, step s = .next t ∧ t.env.beeps.delivered ++ t.env.beeps.pending = s.env.beeps.delivered ++ s.env.beeps.pending ∧
        t.env.beeps.pending = s.env.beeps.pending.tail ∧ UnchangedBut [.beeps, .inputs] s t)

/-! ### Rules of the whole machine -/

/-- Every step answers a next state, and so does every instruction: nothing stops the machine (40_cycle.md, "Every instruction's
semantics is total", which the spec derives). -/
def Obligations.EveryStepAnswersNext : Prop :=
  (∀ s : State, ∃ t, step s = .next t) ∧ ∀ (i : Instr) (s : State), ∃ t, exec i s = .next t

/-- An instruction writes only the state its row of the register access table names, and only the registers it names there:
everything else, memory and display included, is unchanged (the "writes" column of 10_state.md R32; that CXNN also consumes its
random input is D22, that the drawing instructions offer a frame D13, that a fatal halt writes the record D20). -/
def Obligations.InstructionsWriteOnlyTheirSet : Prop :=
  ∀ (i : Instr) (s t : State), exec i s = .next t →
    UnchangedBut (writeSet i) s t ∧ ∀ r, r ∉ writtenRegs i → t.readV r = s.readV r

/-- `running` changes only by an accepted LOAD (to 1), by INIT (to 0), or in a cycle by a fatal halt (to 0), which records a fault
and offers one FATAL event (the record is the spec's choice D20). -/
def Obligations.RunningChangesOnlyAsNamed : Prop :=
  ∀ s t : State, step s = .next t → t.running ≠ s.running →
    (t.running = true ∧ ∃ rom : List Byte, s.nextTransaction = .load rom ∧ rom.length ≤ 3584) ∨
    (t.running = false ∧ s.nextTransaction = .init) ∨
    (t.running = false ∧ s.nextTransaction = .cycle ∧ s.blocked = false ∧ t.fault.cause ≠ .none ∧ t.fault.pc = s.pc ∧
      t.fault.opcode = s.fetchWord s.pc ∧ t.pc = s.pc + 2 ∧
      t.env.trace = s.env.trace ++ [.fatal t.fault.cause t.fault.pc t.fault.opcode])

/-- A step of the TIMER or of the HOST other than LOAD and INIT leaves a program's V registers, I, PC, memory, stack and display,
`running` and the fault record as they were (20_memory.md section 3; atomic transitions are the spec's choice D29). -/
def Obligations.OnlyEngineTouchesProgramState : Prop :=
  ∀ s t : State, step s = .next t → s.nextTransaction ≠ .cycle → s.nextTransaction ≠ .init →
    (∀ rom, s.nextTransaction ≠ .load rom) →
    ∀ p ∈ [Part.registers, .index, .programCounter, .memory, .stack, .display, .running, .waitKey, .faultRecord, .random],
      p.same s t

/-- The parameters of a machine never change (00_scope.md, "Implementation parameters"; that State carries them is the model's
choice, log 5). -/
def Obligations.ParametersNeverChange : Prop :=
  ∀ s t : State, step s = .next t → t.cfg = s.cfg

/-- The output trace and the delivered events only grow: no step takes back an event (60_exceptions.md section 4; channel
buffering is the spec's choice D18, the recorded trace the model's, log 3). -/
def Obligations.OutputsAreNeverRetracted : Prop :=
  ∀ s t : State, step s = .next t →
    s.env.trace <+: t.env.trace ∧ s.env.frames.delivered <+: t.env.frames.delivered ∧
      s.env.beeps.delivered <+: t.env.beeps.delivered

/-- HALTED, SPIN, BLOCKED and KEYWAIT are quiescent: a step of the ENGINE changes nothing (the four conditions are the spec's
choice D25). That it takes its turn from the schedule, and that the state after the step is exactly the state before it where
the ENGINE is to move whenever nothing is pending, is the model's choice (log 1). -/
def Obligations.QuiescentStatesStay : Prop :=
  ∀ s : State, s.nextTransaction = .cycle → (s.Halted ∨ s.Spin ∨ s.WaitsRelease ∨ s.WaitsPress) →
    (∃ t, step s = .next t ∧ UnchangedBut [.inputs] s t) ∧
    (s.env.inputs = [] → s.env.unscheduled = .engine → step s = .next s)

/-- The runs of the step function are the interleavings of the agents' transitions: any finite sequence of transitions is what
the steps perform once it is scheduled, so that any number of TICKs falls between two CYCLEs and of CYCLEs between two TICKs;
and any number of steps performs some sequence of transitions, up to the schedule (70_reset_and_hazards.md R405; atomic
transitions are the spec's choice D29, the free ratio D14, the schedule in the state the model's, log 1). -/
def Obligations.StepRunsAreTheInterleavings : Prop :=
  (∀ (l rest : List Transaction) (s t : State), Interleaves l s t →
    Steps l.length (s.resched (l ++ rest) s.env.unscheduled s.env.turn) (t.resched rest t.env.unscheduled t.env.turn)) ∧
  ∀ (n : Nat) (s t : State), Steps n s t →
    ∃ (l : List Transaction) (u : State), l.length = n ∧ Interleaves l s u ∧
      t = u.resched t.env.inputs t.env.unscheduled t.env.turn

/-- In every fair infinite execution whose CYCLEs write no timer, both timers reach 0 and stay there: the fairness assumption is
the one a claim that the timers reach zero rests on (70_reset_and_hazards.md R405; D14). -/
def Obligations.FairTimersReachZero : Prop :=
  ∀ (sched : Nat → Transaction) (run : Nat → State), Executes sched run → Fair sched →
    (∀ n, sched n = .cycle → (run (n + 1)).dt = (run n).dt ∧ (run (n + 1)).st = (run n).st) →
    ∃ m, ∀ n, m ≤ n → (run n).dt = 0 ∧ (run n).st = 0

/-- After reset, a LOAD of a ROM of at least two bytes makes the CYCLE after it fetch its first word at 0x200 (the boot order of
70_reset_and_hazards.md; D19, D21; the pending transactions are the model's way to write the HOST's and the ENGINE's, log 1). -/
def Obligations.BootFetchesTheRom : Prop :=
  ∀ (hi lo : Byte) (rest : List Byte), rest.length + 2 ≤ 3584 →
    ∃ t, step { State.reset with env := { Env.empty with inputs := [.load (hi :: lo :: rest), .cycle] } } = .next t ∧
      t.nextTransaction = .cycle ∧ t.idle = false ∧ (t.fetchWord t.pc).toNat = 256 * hi.toNat + lo.toNat

/-- The invariant of the block is kept by every step of every agent: canonical memory, channels within their capacities holding
in-order subsequences of what was offered, stack within its depth, a fault only when halted, a block only while the reported
key is held (inferred from the rules of 10_state.md and 60_exceptions.md; D5, D8, D18, D20). -/
def Obligations.InvariantIsKept : Prop :=
  ∀ s t : State, s.Inv → step s = .next t → t.Inv

/-- The state after reset meets the invariant of the block. That channels and trace are empty at reset is the model's choice
(log 3), that the capacities are naturals with no known value log 4; the cleared fault record is the spec's choice D20, the
cleared `blocked` and `wait_key` D21. -/
def Obligations.ResetMeetsTheInvariant : Prop := State.reset.Inv

/-- "Addresses 0x050–0x09F hold immutable font glyphs after init": every step of every agent keeps FONT_DATA there while
FONT_WRITABLE is false (that a store there is ignored is the spec's choice D11). -/
def Obligations.FontStaysIntact : Prop :=
  ∀ s t : State, Memory.wf s.cfg s.mem → s.FontIntact → step s = .next t → t.FontIntact

/-- A program cannot observe the output channels, the trace, the results, the pacing delay or their parameters: two states that
agree on all else step to states that agree on all else (10_state.md R44 and R46, 70_reset_and_hazards.md section 4; D17,
D18). -/
def Obligations.OutputsCannotBeObserved : Prop :=
  ∀ s₁ s₂ t₁ t₂ : State, s₁.hideOutputs = s₂.hideOutputs → step s₁ = .next t₁ → step s₂ = .next t₂ →
    t₁.hideOutputs = t₂.hideOutputs
end

