-- ==== Sys2Proof/Laws/State.lean ====
section
/-! SUPPORT. One lemma per field and per update of the state, so that no later proof unfolds a record update. The updates that
branch (a store, consuming a random byte, beginning a key wait) come last. -/

namespace Sys2Proof.Machine.State

variable (s : State)

/-! ### writeV -/

@[simp] theorem writeV_mem (x : Reg) (b : Byte) : (s.writeV x b).mem = s.mem := rfl
@[simp] theorem writeV_v (x : Reg) (b : Byte) : (s.writeV x b).v = s.v.set x.val b x.isLt := rfl
@[simp] theorem writeV_i (x : Reg) (b : Byte) : (s.writeV x b).i = s.i := rfl
@[simp] theorem writeV_pc (x : Reg) (b : Byte) : (s.writeV x b).pc = s.pc := rfl
@[simp] theorem writeV_stack (x : Reg) (b : Byte) : (s.writeV x b).stack = s.stack := rfl
@[simp] theorem writeV_disp (x : Reg) (b : Byte) : (s.writeV x b).disp = s.disp := rfl
@[simp] theorem writeV_keys (x : Reg) (b : Byte) : (s.writeV x b).keys = s.keys := rfl
@[simp] theorem writeV_dt (x : Reg) (b : Byte) : (s.writeV x b).dt = s.dt := rfl
@[simp] theorem writeV_st (x : Reg) (b : Byte) : (s.writeV x b).st = s.st := rfl
@[simp] theorem writeV_running (x : Reg) (b : Byte) : (s.writeV x b).running = s.running := rfl
@[simp] theorem writeV_blocked (x : Reg) (b : Byte) : (s.writeV x b).blocked = s.blocked := rfl
@[simp] theorem writeV_waitKey (x : Reg) (b : Byte) : (s.writeV x b).waitKey = s.waitKey := rfl
@[simp] theorem writeV_fault (x : Reg) (b : Byte) : (s.writeV x b).fault = s.fault := rfl
@[simp] theorem writeV_delay (x : Reg) (b : Byte) : (s.writeV x b).delay = s.delay := rfl
@[simp] theorem writeV_cfg (x : Reg) (b : Byte) : (s.writeV x b).cfg = s.cfg := rfl
@[simp] theorem writeV_env (x : Reg) (b : Byte) : (s.writeV x b).env = s.env := rfl

/-! ### setI -/

@[simp] theorem setI_mem (w : Word) : (s.setI w).mem = s.mem := rfl
@[simp] theorem setI_v (w : Word) : (s.setI w).v = s.v := rfl
@[simp] theorem setI_i (w : Word) : (s.setI w).i = w := rfl
@[simp] theorem setI_pc (w : Word) : (s.setI w).pc = s.pc := rfl
@[simp] theorem setI_stack (w : Word) : (s.setI w).stack = s.stack := rfl
@[simp] theorem setI_disp (w : Word) : (s.setI w).disp = s.disp := rfl
@[simp] theorem setI_keys (w : Word) : (s.setI w).keys = s.keys := rfl
@[simp] theorem setI_dt (w : Word) : (s.setI w).dt = s.dt := rfl
@[simp] theorem setI_st (w : Word) : (s.setI w).st = s.st := rfl
@[simp] theorem setI_running (w : Word) : (s.setI w).running = s.running := rfl
@[simp] theorem setI_blocked (w : Word) : (s.setI w).blocked = s.blocked := rfl
@[simp] theorem setI_waitKey (w : Word) : (s.setI w).waitKey = s.waitKey := rfl
@[simp] theorem setI_fault (w : Word) : (s.setI w).fault = s.fault := rfl
@[simp] theorem setI_delay (w : Word) : (s.setI w).delay = s.delay := rfl
@[simp] theorem setI_cfg (w : Word) : (s.setI w).cfg = s.cfg := rfl
@[simp] theorem setI_env (w : Word) : (s.setI w).env = s.env := rfl

/-! ### setPc -/

@[simp] theorem setPc_mem (w : Word) : (s.setPc w).mem = s.mem := rfl
@[simp] theorem setPc_v (w : Word) : (s.setPc w).v = s.v := rfl
@[simp] theorem setPc_i (w : Word) : (s.setPc w).i = s.i := rfl
@[simp] theorem setPc_pc (w : Word) : (s.setPc w).pc = w := rfl
@[simp] theorem setPc_stack (w : Word) : (s.setPc w).stack = s.stack := rfl
@[simp] theorem setPc_disp (w : Word) : (s.setPc w).disp = s.disp := rfl
@[simp] theorem setPc_keys (w : Word) : (s.setPc w).keys = s.keys := rfl
@[simp] theorem setPc_dt (w : Word) : (s.setPc w).dt = s.dt := rfl
@[simp] theorem setPc_st (w : Word) : (s.setPc w).st = s.st := rfl
@[simp] theorem setPc_running (w : Word) : (s.setPc w).running = s.running := rfl
@[simp] theorem setPc_blocked (w : Word) : (s.setPc w).blocked = s.blocked := rfl
@[simp] theorem setPc_waitKey (w : Word) : (s.setPc w).waitKey = s.waitKey := rfl
@[simp] theorem setPc_fault (w : Word) : (s.setPc w).fault = s.fault := rfl
@[simp] theorem setPc_delay (w : Word) : (s.setPc w).delay = s.delay := rfl
@[simp] theorem setPc_cfg (w : Word) : (s.setPc w).cfg = s.cfg := rfl
@[simp] theorem setPc_env (w : Word) : (s.setPc w).env = s.env := rfl

/-! ### setDt -/

@[simp] theorem setDt_mem (b : Byte) : (s.setDt b).mem = s.mem := rfl
@[simp] theorem setDt_v (b : Byte) : (s.setDt b).v = s.v := rfl
@[simp] theorem setDt_i (b : Byte) : (s.setDt b).i = s.i := rfl
@[simp] theorem setDt_pc (b : Byte) : (s.setDt b).pc = s.pc := rfl
@[simp] theorem setDt_stack (b : Byte) : (s.setDt b).stack = s.stack := rfl
@[simp] theorem setDt_disp (b : Byte) : (s.setDt b).disp = s.disp := rfl
@[simp] theorem setDt_keys (b : Byte) : (s.setDt b).keys = s.keys := rfl
@[simp] theorem setDt_dt (b : Byte) : (s.setDt b).dt = b := rfl
@[simp] theorem setDt_st (b : Byte) : (s.setDt b).st = s.st := rfl
@[simp] theorem setDt_running (b : Byte) : (s.setDt b).running = s.running := rfl
@[simp] theorem setDt_blocked (b : Byte) : (s.setDt b).blocked = s.blocked := rfl
@[simp] theorem setDt_waitKey (b : Byte) : (s.setDt b).waitKey = s.waitKey := rfl
@[simp] theorem setDt_fault (b : Byte) : (s.setDt b).fault = s.fault := rfl
@[simp] theorem setDt_delay (b : Byte) : (s.setDt b).delay = s.delay := rfl
@[simp] theorem setDt_cfg (b : Byte) : (s.setDt b).cfg = s.cfg := rfl
@[simp] theorem setDt_env (b : Byte) : (s.setDt b).env = s.env := rfl

/-! ### setSt -/

@[simp] theorem setSt_mem (b : Byte) : (s.setSt b).mem = s.mem := rfl
@[simp] theorem setSt_v (b : Byte) : (s.setSt b).v = s.v := rfl
@[simp] theorem setSt_i (b : Byte) : (s.setSt b).i = s.i := rfl
@[simp] theorem setSt_pc (b : Byte) : (s.setSt b).pc = s.pc := rfl
@[simp] theorem setSt_stack (b : Byte) : (s.setSt b).stack = s.stack := rfl
@[simp] theorem setSt_disp (b : Byte) : (s.setSt b).disp = s.disp := rfl
@[simp] theorem setSt_keys (b : Byte) : (s.setSt b).keys = s.keys := rfl
@[simp] theorem setSt_dt (b : Byte) : (s.setSt b).dt = s.dt := rfl
@[simp] theorem setSt_st (b : Byte) : (s.setSt b).st = b := rfl
@[simp] theorem setSt_running (b : Byte) : (s.setSt b).running = s.running := rfl
@[simp] theorem setSt_blocked (b : Byte) : (s.setSt b).blocked = s.blocked := rfl
@[simp] theorem setSt_waitKey (b : Byte) : (s.setSt b).waitKey = s.waitKey := rfl
@[simp] theorem setSt_fault (b : Byte) : (s.setSt b).fault = s.fault := rfl
@[simp] theorem setSt_delay (b : Byte) : (s.setSt b).delay = s.delay := rfl
@[simp] theorem setSt_cfg (b : Byte) : (s.setSt b).cfg = s.cfg := rfl
@[simp] theorem setSt_env (b : Byte) : (s.setSt b).env = s.env := rfl

/-! ### setDisp -/

@[simp] theorem setDisp_mem (d : Display) : (s.setDisp d).mem = s.mem := rfl
@[simp] theorem setDisp_v (d : Display) : (s.setDisp d).v = s.v := rfl
@[simp] theorem setDisp_i (d : Display) : (s.setDisp d).i = s.i := rfl
@[simp] theorem setDisp_pc (d : Display) : (s.setDisp d).pc = s.pc := rfl
@[simp] theorem setDisp_stack (d : Display) : (s.setDisp d).stack = s.stack := rfl
@[simp] theorem setDisp_disp (d : Display) : (s.setDisp d).disp = d := rfl
@[simp] theorem setDisp_keys (d : Display) : (s.setDisp d).keys = s.keys := rfl
@[simp] theorem setDisp_dt (d : Display) : (s.setDisp d).dt = s.dt := rfl
@[simp] theorem setDisp_st (d : Display) : (s.setDisp d).st = s.st := rfl
@[simp] theorem setDisp_running (d : Display) : (s.setDisp d).running = s.running := rfl
@[simp] theorem setDisp_blocked (d : Display) : (s.setDisp d).blocked = s.blocked := rfl
@[simp] theorem setDisp_waitKey (d : Display) : (s.setDisp d).waitKey = s.waitKey := rfl
@[simp] theorem setDisp_fault (d : Display) : (s.setDisp d).fault = s.fault := rfl
@[simp] theorem setDisp_delay (d : Display) : (s.setDisp d).delay = s.delay := rfl
@[simp] theorem setDisp_cfg (d : Display) : (s.setDisp d).cfg = s.cfg := rfl
@[simp] theorem setDisp_env (d : Display) : (s.setDisp d).env = s.env := rfl

/-! ### setStack -/

@[simp] theorem setStack_mem (k : List Word) : (s.setStack k).mem = s.mem := rfl
@[simp] theorem setStack_v (k : List Word) : (s.setStack k).v = s.v := rfl
@[simp] theorem setStack_i (k : List Word) : (s.setStack k).i = s.i := rfl
@[simp] theorem setStack_pc (k : List Word) : (s.setStack k).pc = s.pc := rfl
@[simp] theorem setStack_stack (k : List Word) : (s.setStack k).stack = k := rfl
@[simp] theorem setStack_disp (k : List Word) : (s.setStack k).disp = s.disp := rfl
@[simp] theorem setStack_keys (k : List Word) : (s.setStack k).keys = s.keys := rfl
@[simp] theorem setStack_dt (k : List Word) : (s.setStack k).dt = s.dt := rfl
@[simp] theorem setStack_st (k : List Word) : (s.setStack k).st = s.st := rfl
@[simp] theorem setStack_running (k : List Word) : (s.setStack k).running = s.running := rfl
@[simp] theorem setStack_blocked (k : List Word) : (s.setStack k).blocked = s.blocked := rfl
@[simp] theorem setStack_waitKey (k : List Word) : (s.setStack k).waitKey = s.waitKey := rfl
@[simp] theorem setStack_fault (k : List Word) : (s.setStack k).fault = s.fault := rfl
@[simp] theorem setStack_delay (k : List Word) : (s.setStack k).delay = s.delay := rfl
@[simp] theorem setStack_cfg (k : List Word) : (s.setStack k).cfg = s.cfg := rfl
@[simp] theorem setStack_env (k : List Word) : (s.setStack k).env = s.env := rfl

/-! ### advance -/

@[simp] theorem advance_mem : (s.advance).mem = s.mem := rfl
@[simp] theorem advance_v : (s.advance).v = s.v := rfl
@[simp] theorem advance_i : (s.advance).i = s.i := rfl
@[simp] theorem advance_pc : (s.advance).pc = s.pc + 2 := rfl
@[simp] theorem advance_stack : (s.advance).stack = s.stack := rfl
@[simp] theorem advance_disp : (s.advance).disp = s.disp := rfl
@[simp] theorem advance_keys : (s.advance).keys = s.keys := rfl
@[simp] theorem advance_dt : (s.advance).dt = s.dt := rfl
@[simp] theorem advance_st : (s.advance).st = s.st := rfl
@[simp] theorem advance_running : (s.advance).running = s.running := rfl
@[simp] theorem advance_blocked : (s.advance).blocked = s.blocked := rfl
@[simp] theorem advance_waitKey : (s.advance).waitKey = s.waitKey := rfl
@[simp] theorem advance_fault : (s.advance).fault = s.fault := rfl
@[simp] theorem advance_delay : (s.advance).delay = s.delay := rfl
@[simp] theorem advance_cfg : (s.advance).cfg = s.cfg := rfl
@[simp] theorem advance_env : (s.advance).env = s.env := rfl

/-! ### emit -/

@[simp] theorem emit_mem (e : Event) : (s.emit e).mem = s.mem := rfl
@[simp] theorem emit_v (e : Event) : (s.emit e).v = s.v := rfl
@[simp] theorem emit_i (e : Event) : (s.emit e).i = s.i := rfl
@[simp] theorem emit_pc (e : Event) : (s.emit e).pc = s.pc := rfl
@[simp] theorem emit_stack (e : Event) : (s.emit e).stack = s.stack := rfl
@[simp] theorem emit_disp (e : Event) : (s.emit e).disp = s.disp := rfl
@[simp] theorem emit_keys (e : Event) : (s.emit e).keys = s.keys := rfl
@[simp] theorem emit_dt (e : Event) : (s.emit e).dt = s.dt := rfl
@[simp] theorem emit_st (e : Event) : (s.emit e).st = s.st := rfl
@[simp] theorem emit_running (e : Event) : (s.emit e).running = s.running := rfl
@[simp] theorem emit_blocked (e : Event) : (s.emit e).blocked = s.blocked := rfl
@[simp] theorem emit_waitKey (e : Event) : (s.emit e).waitKey = s.waitKey := rfl
@[simp] theorem emit_fault (e : Event) : (s.emit e).fault = s.fault := rfl
@[simp] theorem emit_delay (e : Event) : (s.emit e).delay = s.delay := rfl
@[simp] theorem emit_cfg (e : Event) : (s.emit e).cfg = s.cfg := rfl
@[simp] theorem emit_env_inputs (e : Event) : (s.emit e).env.inputs = s.env.inputs := rfl
@[simp] theorem emit_env_unscheduled (e : Event) : (s.emit e).env.unscheduled = s.env.unscheduled := rfl
@[simp] theorem emit_env_turn (e : Event) : (s.emit e).env.turn = s.env.turn := rfl
@[simp] theorem emit_env_draws (e : Event) : (s.emit e).env.draws = s.env.draws := rfl
@[simp] theorem emit_env_drawn (e : Event) : (s.emit e).env.drawn = s.env.drawn := rfl
@[simp] theorem emit_env_trace (e : Event) : (s.emit e).env.trace = s.env.trace ++ [e] := rfl
@[simp] theorem emit_env_replies (e : Event) : (s.emit e).env.replies = s.env.replies := rfl
@[simp] theorem emit_env_frames (e : Event) : (s.emit e).env.frames = s.env.frames := rfl
@[simp] theorem emit_env_beeps (e : Event) : (s.emit e).env.beeps = s.env.beeps := rfl

/-! ### publishFrame -/

@[simp] theorem publishFrame_mem : (s.publishFrame).mem = s.mem := rfl
@[simp] theorem publishFrame_v : (s.publishFrame).v = s.v := rfl
@[simp] theorem publishFrame_i : (s.publishFrame).i = s.i := rfl
@[simp] theorem publishFrame_pc : (s.publishFrame).pc = s.pc := rfl
@[simp] theorem publishFrame_stack : (s.publishFrame).stack = s.stack := rfl
@[simp] theorem publishFrame_disp : (s.publishFrame).disp = s.disp := rfl
@[simp] theorem publishFrame_keys : (s.publishFrame).keys = s.keys := rfl
@[simp] theorem publishFrame_dt : (s.publishFrame).dt = s.dt := rfl
@[simp] theorem publishFrame_st : (s.publishFrame).st = s.st := rfl
@[simp] theorem publishFrame_running : (s.publishFrame).running = s.running := rfl
@[simp] theorem publishFrame_blocked : (s.publishFrame).blocked = s.blocked := rfl
@[simp] theorem publishFrame_waitKey : (s.publishFrame).waitKey = s.waitKey := rfl
@[simp] theorem publishFrame_fault : (s.publishFrame).fault = s.fault := rfl
@[simp] theorem publishFrame_delay : (s.publishFrame).delay = s.delay := rfl
@[simp] theorem publishFrame_cfg : (s.publishFrame).cfg = s.cfg := rfl
@[simp] theorem publishFrame_env_inputs : (s.publishFrame).env.inputs = s.env.inputs := rfl
@[simp] theorem publishFrame_env_unscheduled : (s.publishFrame).env.unscheduled = s.env.unscheduled := rfl
@[simp] theorem publishFrame_env_turn : (s.publishFrame).env.turn = s.env.turn := rfl
@[simp] theorem publishFrame_env_draws : (s.publishFrame).env.draws = s.env.draws := rfl
@[simp] theorem publishFrame_env_drawn : (s.publishFrame).env.drawn = s.env.drawn := rfl
@[simp] theorem publishFrame_env_trace : (s.publishFrame).env.trace = s.env.trace ++ [.frame s.disp] := rfl
@[simp] theorem publishFrame_env_replies : (s.publishFrame).env.replies = s.env.replies := rfl
@[simp] theorem publishFrame_env_frames : (s.publishFrame).env.frames = s.env.frames.offer s.cfg.frameCap s.nextLoss s.disp := rfl
@[simp] theorem publishFrame_env_beeps : (s.publishFrame).env.beeps = s.env.beeps := rfl

/-! ### emitBeep -/

@[simp] theorem emitBeep_mem (b : Bool) : (s.emitBeep b).mem = s.mem := rfl
@[simp] theorem emitBeep_v (b : Bool) : (s.emitBeep b).v = s.v := rfl
@[simp] theorem emitBeep_i (b : Bool) : (s.emitBeep b).i = s.i := rfl
@[simp] theorem emitBeep_pc (b : Bool) : (s.emitBeep b).pc = s.pc := rfl
@[simp] theorem emitBeep_stack (b : Bool) : (s.emitBeep b).stack = s.stack := rfl
@[simp] theorem emitBeep_disp (b : Bool) : (s.emitBeep b).disp = s.disp := rfl
@[simp] theorem emitBeep_keys (b : Bool) : (s.emitBeep b).keys = s.keys := rfl
@[simp] theorem emitBeep_dt (b : Bool) : (s.emitBeep b).dt = s.dt := rfl
@[simp] theorem emitBeep_st (b : Bool) : (s.emitBeep b).st = s.st := rfl
@[simp] theorem emitBeep_running (b : Bool) : (s.emitBeep b).running = s.running := rfl
@[simp] theorem emitBeep_blocked (b : Bool) : (s.emitBeep b).blocked = s.blocked := rfl
@[simp] theorem emitBeep_waitKey (b : Bool) : (s.emitBeep b).waitKey = s.waitKey := rfl
@[simp] theorem emitBeep_fault (b : Bool) : (s.emitBeep b).fault = s.fault := rfl
@[simp] theorem emitBeep_delay (b : Bool) : (s.emitBeep b).delay = s.delay := rfl
@[simp] theorem emitBeep_cfg (b : Bool) : (s.emitBeep b).cfg = s.cfg := rfl
@[simp] theorem emitBeep_env_inputs (b : Bool) : (s.emitBeep b).env.inputs = s.env.inputs := rfl
@[simp] theorem emitBeep_env_unscheduled (b : Bool) : (s.emitBeep b).env.unscheduled = s.env.unscheduled := rfl
@[simp] theorem emitBeep_env_turn (b : Bool) : (s.emitBeep b).env.turn = s.env.turn := rfl
@[simp] theorem emitBeep_env_draws (b : Bool) : (s.emitBeep b).env.draws = s.env.draws := rfl
@[simp] theorem emitBeep_env_drawn (b : Bool) : (s.emitBeep b).env.drawn = s.env.drawn := rfl
@[simp] theorem emitBeep_env_trace (b : Bool) : (s.emitBeep b).env.trace = s.env.trace ++ [.beep b] := rfl
@[simp] theorem emitBeep_env_replies (b : Bool) : (s.emitBeep b).env.replies = s.env.replies := rfl
@[simp] theorem emitBeep_env_frames (b : Bool) : (s.emitBeep b).env.frames = s.env.frames := rfl
@[simp] theorem emitBeep_env_beeps (b : Bool) : (s.emitBeep b).env.beeps = s.env.beeps.offer s.cfg.beepCap s.nextLoss b := rfl

/-! ### reply -/

@[simp] theorem reply_mem (r : Reply) : (s.reply r).mem = s.mem := rfl
@[simp] theorem reply_v (r : Reply) : (s.reply r).v = s.v := rfl
@[simp] theorem reply_i (r : Reply) : (s.reply r).i = s.i := rfl
@[simp] theorem reply_pc (r : Reply) : (s.reply r).pc = s.pc := rfl
@[simp] theorem reply_stack (r : Reply) : (s.reply r).stack = s.stack := rfl
@[simp] theorem reply_disp (r : Reply) : (s.reply r).disp = s.disp := rfl
@[simp] theorem reply_keys (r : Reply) : (s.reply r).keys = s.keys := rfl
@[simp] theorem reply_dt (r : Reply) : (s.reply r).dt = s.dt := rfl
@[simp] theorem reply_st (r : Reply) : (s.reply r).st = s.st := rfl
@[simp] theorem reply_running (r : Reply) : (s.reply r).running = s.running := rfl
@[simp] theorem reply_blocked (r : Reply) : (s.reply r).blocked = s.blocked := rfl
@[simp] theorem reply_waitKey (r : Reply) : (s.reply r).waitKey = s.waitKey := rfl
@[simp] theorem reply_fault (r : Reply) : (s.reply r).fault = s.fault := rfl
@[simp] theorem reply_delay (r : Reply) : (s.reply r).delay = s.delay := rfl
@[simp] theorem reply_cfg (r : Reply) : (s.reply r).cfg = s.cfg := rfl
@[simp] theorem reply_env_inputs (r : Reply) : (s.reply r).env.inputs = s.env.inputs := rfl
@[simp] theorem reply_env_unscheduled (r : Reply) : (s.reply r).env.unscheduled = s.env.unscheduled := rfl
@[simp] theorem reply_env_turn (r : Reply) : (s.reply r).env.turn = s.env.turn := rfl
@[simp] theorem reply_env_draws (r : Reply) : (s.reply r).env.draws = s.env.draws := rfl
@[simp] theorem reply_env_drawn (r : Reply) : (s.reply r).env.drawn = s.env.drawn := rfl
@[simp] theorem reply_env_trace (r : Reply) : (s.reply r).env.trace = s.env.trace := rfl
@[simp] theorem reply_env_replies (r : Reply) : (s.reply r).env.replies = s.env.replies ++ [r] := rfl
@[simp] theorem reply_env_frames (r : Reply) : (s.reply r).env.frames = s.env.frames := rfl
@[simp] theorem reply_env_beeps (r : Reply) : (s.reply r).env.beeps = s.env.beeps := rfl

/-! ### raiseFatal -/

@[simp] theorem raiseFatal_mem (c : Cause) (a w : Word) : (s.raiseFatal c a w).mem = s.mem := rfl
@[simp] theorem raiseFatal_v (c : Cause) (a w : Word) : (s.raiseFatal c a w).v = s.v := rfl
@[simp] theorem raiseFatal_i (c : Cause) (a w : Word) : (s.raiseFatal c a w).i = s.i := rfl
@[simp] theorem raiseFatal_pc (c : Cause) (a w : Word) : (s.raiseFatal c a w).pc = s.pc := rfl
@[simp] theorem raiseFatal_stack (c : Cause) (a w : Word) : (s.raiseFatal c a w).stack = s.stack := rfl
@[simp] theorem raiseFatal_disp (c : Cause) (a w : Word) : (s.raiseFatal c a w).disp = s.disp := rfl
@[simp] theorem raiseFatal_keys (c : Cause) (a w : Word) : (s.raiseFatal c a w).keys = s.keys := rfl
@[simp] theorem raiseFatal_dt (c : Cause) (a w : Word) : (s.raiseFatal c a w).dt = s.dt := rfl
@[simp] theorem raiseFatal_st (c : Cause) (a w : Word) : (s.raiseFatal c a w).st = s.st := rfl
@[simp] theorem raiseFatal_running (c : Cause) (a w : Word) : (s.raiseFatal c a w).running = false := rfl
@[simp] theorem raiseFatal_blocked (c : Cause) (a w : Word) : (s.raiseFatal c a w).blocked = s.blocked := rfl
@[simp] theorem raiseFatal_waitKey (c : Cause) (a w : Word) : (s.raiseFatal c a w).waitKey = s.waitKey := rfl
@[simp] theorem raiseFatal_fault (c : Cause) (a w : Word) : (s.raiseFatal c a w).fault = ⟨c, a, w⟩ := rfl
@[simp] theorem raiseFatal_delay (c : Cause) (a w : Word) : (s.raiseFatal c a w).delay = s.delay := rfl
@[simp] theorem raiseFatal_cfg (c : Cause) (a w : Word) : (s.raiseFatal c a w).cfg = s.cfg := rfl
@[simp] theorem raiseFatal_env_inputs (c : Cause) (a w : Word) : (s.raiseFatal c a w).env.inputs = s.env.inputs := rfl
@[simp] theorem raiseFatal_env_unscheduled (c : Cause) (a w : Word) : (s.raiseFatal c a w).env.unscheduled = s.env.unscheduled := rfl
@[simp] theorem raiseFatal_env_turn (c : Cause) (a w : Word) : (s.raiseFatal c a w).env.turn = s.env.turn := rfl
@[simp] theorem raiseFatal_env_draws (c : Cause) (a w : Word) : (s.raiseFatal c a w).env.draws = s.env.draws := rfl
@[simp] theorem raiseFatal_env_drawn (c : Cause) (a w : Word) : (s.raiseFatal c a w).env.drawn = s.env.drawn := rfl
@[simp] theorem raiseFatal_env_trace (c : Cause) (a w : Word) : (s.raiseFatal c a w).env.trace = s.env.trace ++ [.fatal c a w] := rfl
@[simp] theorem raiseFatal_env_replies (c : Cause) (a w : Word) : (s.raiseFatal c a w).env.replies = s.env.replies := rfl
@[simp] theorem raiseFatal_env_frames (c : Cause) (a w : Word) : (s.raiseFatal c a w).env.frames = s.env.frames := rfl
@[simp] theorem raiseFatal_env_beeps (c : Cause) (a w : Word) : (s.raiseFatal c a w).env.beeps = s.env.beeps := rfl

/-! ### takeFrame -/

@[simp] theorem takeFrame_mem : (s.takeFrame).mem = s.mem := rfl
@[simp] theorem takeFrame_v : (s.takeFrame).v = s.v := rfl
@[simp] theorem takeFrame_i : (s.takeFrame).i = s.i := rfl
@[simp] theorem takeFrame_pc : (s.takeFrame).pc = s.pc := rfl
@[simp] theorem takeFrame_stack : (s.takeFrame).stack = s.stack := rfl
@[simp] theorem takeFrame_disp : (s.takeFrame).disp = s.disp := rfl
@[simp] theorem takeFrame_keys : (s.takeFrame).keys = s.keys := rfl
@[simp] theorem takeFrame_dt : (s.takeFrame).dt = s.dt := rfl
@[simp] theorem takeFrame_st : (s.takeFrame).st = s.st := rfl
@[simp] theorem takeFrame_running : (s.takeFrame).running = s.running := rfl
@[simp] theorem takeFrame_blocked : (s.takeFrame).blocked = s.blocked := rfl
@[simp] theorem takeFrame_waitKey : (s.takeFrame).waitKey = s.waitKey := rfl
@[simp] theorem takeFrame_fault : (s.takeFrame).fault = s.fault := rfl
@[simp] theorem takeFrame_delay : (s.takeFrame).delay = s.delay := rfl
@[simp] theorem takeFrame_cfg : (s.takeFrame).cfg = s.cfg := rfl
@[simp] theorem takeFrame_env_inputs : (s.takeFrame).env.inputs = s.env.inputs := rfl
@[simp] theorem takeFrame_env_unscheduled : (s.takeFrame).env.unscheduled = s.env.unscheduled := rfl
@[simp] theorem takeFrame_env_turn : (s.takeFrame).env.turn = s.env.turn := rfl
@[simp] theorem takeFrame_env_draws : (s.takeFrame).env.draws = s.env.draws := rfl
@[simp] theorem takeFrame_env_drawn : (s.takeFrame).env.drawn = s.env.drawn := rfl
@[simp] theorem takeFrame_env_trace : (s.takeFrame).env.trace = s.env.trace := rfl
@[simp] theorem takeFrame_env_replies : (s.takeFrame).env.replies = s.env.replies := rfl
@[simp] theorem takeFrame_env_frames : (s.takeFrame).env.frames = s.env.frames.take := rfl
@[simp] theorem takeFrame_env_beeps : (s.takeFrame).env.beeps = s.env.beeps := rfl

/-! ### takeBeep -/

@[simp] theorem takeBeep_mem : (s.takeBeep).mem = s.mem := rfl
@[simp] theorem takeBeep_v : (s.takeBeep).v = s.v := rfl
@[simp] theorem takeBeep_i : (s.takeBeep).i = s.i := rfl
@[simp] theorem takeBeep_pc : (s.takeBeep).pc = s.pc := rfl
@[simp] theorem takeBeep_stack : (s.takeBeep).stack = s.stack := rfl
@[simp] theorem takeBeep_disp : (s.takeBeep).disp = s.disp := rfl
@[simp] theorem takeBeep_keys : (s.takeBeep).keys = s.keys := rfl
@[simp] theorem takeBeep_dt : (s.takeBeep).dt = s.dt := rfl
@[simp] theorem takeBeep_st : (s.takeBeep).st = s.st := rfl
@[simp] theorem takeBeep_running : (s.takeBeep).running = s.running := rfl
@[simp] theorem takeBeep_blocked : (s.takeBeep).blocked = s.blocked := rfl
@[simp] theorem takeBeep_waitKey : (s.takeBeep).waitKey = s.waitKey := rfl
@[simp] theorem takeBeep_fault : (s.takeBeep).fault = s.fault := rfl
@[simp] theorem takeBeep_delay : (s.takeBeep).delay = s.delay := rfl
@[simp] theorem takeBeep_cfg : (s.takeBeep).cfg = s.cfg := rfl
@[simp] theorem takeBeep_env_inputs : (s.takeBeep).env.inputs = s.env.inputs := rfl
@[simp] theorem takeBeep_env_unscheduled : (s.takeBeep).env.unscheduled = s.env.unscheduled := rfl
@[simp] theorem takeBeep_env_turn : (s.takeBeep).env.turn = s.env.turn := rfl
@[simp] theorem takeBeep_env_draws : (s.takeBeep).env.draws = s.env.draws := rfl
@[simp] theorem takeBeep_env_drawn : (s.takeBeep).env.drawn = s.env.drawn := rfl
@[simp] theorem takeBeep_env_trace : (s.takeBeep).env.trace = s.env.trace := rfl
@[simp] theorem takeBeep_env_replies : (s.takeBeep).env.replies = s.env.replies := rfl
@[simp] theorem takeBeep_env_frames : (s.takeBeep).env.frames = s.env.frames := rfl
@[simp] theorem takeBeep_env_beeps : (s.takeBeep).env.beeps = s.env.beeps.take := rfl

/-! ### afterChoice -/

@[simp] theorem afterChoice_mem : (s.afterChoice).mem = s.mem := rfl
@[simp] theorem afterChoice_v : (s.afterChoice).v = s.v := rfl
@[simp] theorem afterChoice_i : (s.afterChoice).i = s.i := rfl
@[simp] theorem afterChoice_pc : (s.afterChoice).pc = s.pc := rfl
@[simp] theorem afterChoice_stack : (s.afterChoice).stack = s.stack := rfl
@[simp] theorem afterChoice_disp : (s.afterChoice).disp = s.disp := rfl
@[simp] theorem afterChoice_keys : (s.afterChoice).keys = s.keys := rfl
@[simp] theorem afterChoice_dt : (s.afterChoice).dt = s.dt := rfl
@[simp] theorem afterChoice_st : (s.afterChoice).st = s.st := rfl
@[simp] theorem afterChoice_running : (s.afterChoice).running = s.running := rfl
@[simp] theorem afterChoice_blocked : (s.afterChoice).blocked = s.blocked := rfl
@[simp] theorem afterChoice_waitKey : (s.afterChoice).waitKey = s.waitKey := rfl
@[simp] theorem afterChoice_fault : (s.afterChoice).fault = s.fault := rfl
@[simp] theorem afterChoice_delay : (s.afterChoice).delay = s.delay := rfl
@[simp] theorem afterChoice_cfg : (s.afterChoice).cfg = s.cfg := rfl
@[simp] theorem afterChoice_env_inputs : (s.afterChoice).env.inputs = s.env.inputs.tail := rfl
@[simp] theorem afterChoice_env_unscheduled : (s.afterChoice).env.unscheduled = s.env.unscheduled := rfl
@[simp] theorem afterChoice_env_turn : (s.afterChoice).env.turn = s.nextTurn := rfl
@[simp] theorem afterChoice_env_draws : (s.afterChoice).env.draws = s.env.draws := rfl
@[simp] theorem afterChoice_env_drawn : (s.afterChoice).env.drawn = s.env.drawn := rfl
@[simp] theorem afterChoice_env_trace : (s.afterChoice).env.trace = s.env.trace := rfl
@[simp] theorem afterChoice_env_replies : (s.afterChoice).env.replies = s.env.replies := rfl
@[simp] theorem afterChoice_env_frames : (s.afterChoice).env.frames = s.env.frames := rfl
@[simp] theorem afterChoice_env_beeps : (s.afterChoice).env.beeps = s.env.beeps := rfl

/-! ### speed -/

@[simp] theorem speed_mem (d : Int) : (s.speed d).mem = s.mem := rfl
@[simp] theorem speed_v (d : Int) : (s.speed d).v = s.v := rfl
@[simp] theorem speed_i (d : Int) : (s.speed d).i = s.i := rfl
@[simp] theorem speed_pc (d : Int) : (s.speed d).pc = s.pc := rfl
@[simp] theorem speed_stack (d : Int) : (s.speed d).stack = s.stack := rfl
@[simp] theorem speed_disp (d : Int) : (s.speed d).disp = s.disp := rfl
@[simp] theorem speed_keys (d : Int) : (s.speed d).keys = s.keys := rfl
@[simp] theorem speed_dt (d : Int) : (s.speed d).dt = s.dt := rfl
@[simp] theorem speed_st (d : Int) : (s.speed d).st = s.st := rfl
@[simp] theorem speed_running (d : Int) : (s.speed d).running = s.running := rfl
@[simp] theorem speed_blocked (d : Int) : (s.speed d).blocked = s.blocked := rfl
@[simp] theorem speed_waitKey (d : Int) : (s.speed d).waitKey = s.waitKey := rfl
@[simp] theorem speed_fault (d : Int) : (s.speed d).fault = s.fault := rfl
@[simp] theorem speed_delay (d : Int) : (s.speed d).delay = s.clampedDelay d := rfl
@[simp] theorem speed_cfg (d : Int) : (s.speed d).cfg = s.cfg := rfl
@[simp] theorem speed_env (d : Int) : (s.speed d).env = s.env := rfl

/-! ### status -/

@[simp] theorem status_mem : (s.status).mem = s.mem := rfl
@[simp] theorem status_v : (s.status).v = s.v := rfl
@[simp] theorem status_i : (s.status).i = s.i := rfl
@[simp] theorem status_pc : (s.status).pc = s.pc := rfl
@[simp] theorem status_stack : (s.status).stack = s.stack := rfl
@[simp] theorem status_disp : (s.status).disp = s.disp := rfl
@[simp] theorem status_keys : (s.status).keys = s.keys := rfl
@[simp] theorem status_dt : (s.status).dt = s.dt := rfl
@[simp] theorem status_st : (s.status).st = s.st := rfl
@[simp] theorem status_running : (s.status).running = s.running := rfl
@[simp] theorem status_blocked : (s.status).blocked = s.blocked := rfl
@[simp] theorem status_waitKey : (s.status).waitKey = s.waitKey := rfl
@[simp] theorem status_fault : (s.status).fault = s.fault := rfl
@[simp] theorem status_delay : (s.status).delay = s.delay := rfl
@[simp] theorem status_cfg : (s.status).cfg = s.cfg := rfl
@[simp] theorem status_env_inputs : (s.status).env.inputs = s.env.inputs := rfl
@[simp] theorem status_env_unscheduled : (s.status).env.unscheduled = s.env.unscheduled := rfl
@[simp] theorem status_env_turn : (s.status).env.turn = s.env.turn := rfl
@[simp] theorem status_env_draws : (s.status).env.draws = s.env.draws := rfl
@[simp] theorem status_env_drawn : (s.status).env.drawn = s.env.drawn := rfl
@[simp] theorem status_env_trace : (s.status).env.trace = s.env.trace := rfl
@[simp] theorem status_env_replies : (s.status).env.replies = s.env.replies ++ [.status s.running s.blocked s.waitKey s.fault s.delay] := rfl
@[simp] theorem status_env_frames : (s.status).env.frames = s.env.frames := rfl
@[simp] theorem status_env_beeps : (s.status).env.beeps = s.env.beeps := rfl

/-! ### keyEvent -/

@[simp] theorem keyEvent_mem (k : Key) (p : Bool) : (s.keyEvent k p).mem = s.mem := rfl
@[simp] theorem keyEvent_v (k : Key) (p : Bool) : (s.keyEvent k p).v = s.v := rfl
@[simp] theorem keyEvent_i (k : Key) (p : Bool) : (s.keyEvent k p).i = s.i := rfl
@[simp] theorem keyEvent_pc (k : Key) (p : Bool) : (s.keyEvent k p).pc = s.pc := rfl
@[simp] theorem keyEvent_stack (k : Key) (p : Bool) : (s.keyEvent k p).stack = s.stack := rfl
@[simp] theorem keyEvent_disp (k : Key) (p : Bool) : (s.keyEvent k p).disp = s.disp := rfl
@[simp] theorem keyEvent_keys (k : Key) (p : Bool) : (s.keyEvent k p).keys = s.keys.set k.val p k.isLt := rfl
@[simp] theorem keyEvent_dt (k : Key) (p : Bool) : (s.keyEvent k p).dt = s.dt := rfl
@[simp] theorem keyEvent_st (k : Key) (p : Bool) : (s.keyEvent k p).st = s.st := rfl
@[simp] theorem keyEvent_running (k : Key) (p : Bool) : (s.keyEvent k p).running = s.running := rfl
@[simp] theorem keyEvent_blocked (k : Key) (p : Bool) : (s.keyEvent k p).blocked = (s.blocked && !s.endsWait k p (s.key k)) := rfl
@[simp] theorem keyEvent_waitKey (k : Key) (p : Bool) : (s.keyEvent k p).waitKey = s.waitKey := rfl
@[simp] theorem keyEvent_fault (k : Key) (p : Bool) : (s.keyEvent k p).fault = s.fault := rfl
@[simp] theorem keyEvent_delay (k : Key) (p : Bool) : (s.keyEvent k p).delay = s.delay := rfl
@[simp] theorem keyEvent_cfg (k : Key) (p : Bool) : (s.keyEvent k p).cfg = s.cfg := rfl
@[simp] theorem keyEvent_env (k : Key) (p : Bool) : (s.keyEvent k p).env = s.env := rfl

/-! ### tick -/

@[simp] theorem tick_mem : (s.tick).mem = s.mem := rfl
@[simp] theorem tick_v : (s.tick).v = s.v := rfl
@[simp] theorem tick_i : (s.tick).i = s.i := rfl
@[simp] theorem tick_pc : (s.tick).pc = s.pc := rfl
@[simp] theorem tick_stack : (s.tick).stack = s.stack := rfl
@[simp] theorem tick_disp : (s.tick).disp = s.disp := rfl
@[simp] theorem tick_keys : (s.tick).keys = s.keys := rfl
@[simp] theorem tick_dt : (s.tick).dt = countDown s.dt := rfl
@[simp] theorem tick_st : (s.tick).st = countDown s.st := rfl
@[simp] theorem tick_running : (s.tick).running = s.running := rfl
@[simp] theorem tick_blocked : (s.tick).blocked = s.blocked := rfl
@[simp] theorem tick_waitKey : (s.tick).waitKey = s.waitKey := rfl
@[simp] theorem tick_fault : (s.tick).fault = s.fault := rfl
@[simp] theorem tick_delay : (s.tick).delay = s.delay := rfl
@[simp] theorem tick_cfg : (s.tick).cfg = s.cfg := rfl
@[simp] theorem tick_env_inputs : (s.tick).env.inputs = s.env.inputs := rfl
@[simp] theorem tick_env_unscheduled : (s.tick).env.unscheduled = s.env.unscheduled := rfl
@[simp] theorem tick_env_turn : (s.tick).env.turn = s.env.turn := rfl
@[simp] theorem tick_env_draws : (s.tick).env.draws = s.env.draws := rfl
@[simp] theorem tick_env_drawn : (s.tick).env.drawn = s.env.drawn := rfl
@[simp] theorem tick_env_trace : (s.tick).env.trace = s.env.trace ++ [.beep (s.st != 0)] := rfl
@[simp] theorem tick_env_replies : (s.tick).env.replies = s.env.replies := rfl
@[simp] theorem tick_env_frames : (s.tick).env.frames = s.env.frames := rfl
@[simp] theorem tick_env_beeps : (s.tick).env.beeps = s.env.beeps.offer s.cfg.beepCap s.nextLoss (s.st != 0) := rfl

/-! ### Updates that branch -/

@[simp] theorem memWrite_v (a : Nat) (x : Byte) : (s.memWrite a x).v = s.v := by unfold State.memWrite; split <;> rfl
@[simp] theorem memWrite_i (a : Nat) (x : Byte) : (s.memWrite a x).i = s.i := by unfold State.memWrite; split <;> rfl
@[simp] theorem memWrite_pc (a : Nat) (x : Byte) : (s.memWrite a x).pc = s.pc := by unfold State.memWrite; split <;> rfl
@[simp] theorem memWrite_stack (a : Nat) (x : Byte) : (s.memWrite a x).stack = s.stack := by unfold State.memWrite; split <;> rfl
@[simp] theorem memWrite_disp (a : Nat) (x : Byte) : (s.memWrite a x).disp = s.disp := by unfold State.memWrite; split <;> rfl
@[simp] theorem memWrite_keys (a : Nat) (x : Byte) : (s.memWrite a x).keys = s.keys := by unfold State.memWrite; split <;> rfl
@[simp] theorem memWrite_dt (a : Nat) (x : Byte) : (s.memWrite a x).dt = s.dt := by unfold State.memWrite; split <;> rfl
@[simp] theorem memWrite_st (a : Nat) (x : Byte) : (s.memWrite a x).st = s.st := by unfold State.memWrite; split <;> rfl
@[simp] theorem memWrite_running (a : Nat) (x : Byte) : (s.memWrite a x).running = s.running := by unfold State.memWrite; split <;> rfl
@[simp] theorem memWrite_blocked (a : Nat) (x : Byte) : (s.memWrite a x).blocked = s.blocked := by unfold State.memWrite; split <;> rfl
@[simp] theorem memWrite_waitKey (a : Nat) (x : Byte) : (s.memWrite a x).waitKey = s.waitKey := by unfold State.memWrite; split <;> rfl
@[simp] theorem memWrite_fault (a : Nat) (x : Byte) : (s.memWrite a x).fault = s.fault := by unfold State.memWrite; split <;> rfl
@[simp] theorem memWrite_delay (a : Nat) (x : Byte) : (s.memWrite a x).delay = s.delay := by unfold State.memWrite; split <;> rfl
@[simp] theorem memWrite_cfg (a : Nat) (x : Byte) : (s.memWrite a x).cfg = s.cfg := by unfold State.memWrite; split <;> rfl
@[simp] theorem memWrite_env (a : Nat) (x : Byte) : (s.memWrite a x).env = s.env := by unfold State.memWrite; split <;> rfl
@[simp] theorem skipIf_mem (c : Bool) : (s.skipIf c).mem = s.mem := by cases c <;> rfl
@[simp] theorem skipIf_v (c : Bool) : (s.skipIf c).v = s.v := by cases c <;> rfl
@[simp] theorem skipIf_i (c : Bool) : (s.skipIf c).i = s.i := by cases c <;> rfl
@[simp] theorem skipIf_stack (c : Bool) : (s.skipIf c).stack = s.stack := by cases c <;> rfl
@[simp] theorem skipIf_disp (c : Bool) : (s.skipIf c).disp = s.disp := by cases c <;> rfl
@[simp] theorem skipIf_keys (c : Bool) : (s.skipIf c).keys = s.keys := by cases c <;> rfl
@[simp] theorem skipIf_dt (c : Bool) : (s.skipIf c).dt = s.dt := by cases c <;> rfl
@[simp] theorem skipIf_st (c : Bool) : (s.skipIf c).st = s.st := by cases c <;> rfl
@[simp] theorem skipIf_running (c : Bool) : (s.skipIf c).running = s.running := by cases c <;> rfl
@[simp] theorem skipIf_blocked (c : Bool) : (s.skipIf c).blocked = s.blocked := by cases c <;> rfl
@[simp] theorem skipIf_waitKey (c : Bool) : (s.skipIf c).waitKey = s.waitKey := by cases c <;> rfl
@[simp] theorem skipIf_fault (c : Bool) : (s.skipIf c).fault = s.fault := by cases c <;> rfl
@[simp] theorem skipIf_delay (c : Bool) : (s.skipIf c).delay = s.delay := by cases c <;> rfl
@[simp] theorem skipIf_cfg (c : Bool) : (s.skipIf c).cfg = s.cfg := by cases c <;> rfl
@[simp] theorem skipIf_env (c : Bool) : (s.skipIf c).env = s.env := by cases c <;> rfl
@[simp] theorem consumeRand_mem : (s.consumeRand).mem = s.mem := by unfold State.consumeRand; split <;> rfl
@[simp] theorem consumeRand_v : (s.consumeRand).v = s.v := by unfold State.consumeRand; split <;> rfl
@[simp] theorem consumeRand_i : (s.consumeRand).i = s.i := by unfold State.consumeRand; split <;> rfl
@[simp] theorem consumeRand_pc : (s.consumeRand).pc = s.pc := by unfold State.consumeRand; split <;> rfl
@[simp] theorem consumeRand_stack : (s.consumeRand).stack = s.stack := by unfold State.consumeRand; split <;> rfl
@[simp] theorem consumeRand_disp : (s.consumeRand).disp = s.disp := by unfold State.consumeRand; split <;> rfl
@[simp] theorem consumeRand_keys : (s.consumeRand).keys = s.keys := by unfold State.consumeRand; split <;> rfl
@[simp] theorem consumeRand_dt : (s.consumeRand).dt = s.dt := by unfold State.consumeRand; split <;> rfl
@[simp] theorem consumeRand_st : (s.consumeRand).st = s.st := by unfold State.consumeRand; split <;> rfl
@[simp] theorem consumeRand_running : (s.consumeRand).running = s.running := by unfold State.consumeRand; split <;> rfl
@[simp] theorem consumeRand_blocked : (s.consumeRand).blocked = s.blocked := by unfold State.consumeRand; split <;> rfl
@[simp] theorem consumeRand_waitKey : (s.consumeRand).waitKey = s.waitKey := by unfold State.consumeRand; split <;> rfl
@[simp] theorem consumeRand_fault : (s.consumeRand).fault = s.fault := by unfold State.consumeRand; split <;> rfl
@[simp] theorem consumeRand_delay : (s.consumeRand).delay = s.delay := by unfold State.consumeRand; split <;> rfl
@[simp] theorem consumeRand_cfg : (s.consumeRand).cfg = s.cfg := by unfold State.consumeRand; split <;> rfl
@[simp] theorem beginWait_mem (k : Key) : (s.beginWait k).mem = s.mem := by unfold State.beginWait; split <;> rfl
@[simp] theorem beginWait_v (k : Key) : (s.beginWait k).v = s.v := by unfold State.beginWait; split <;> rfl
@[simp] theorem beginWait_i (k : Key) : (s.beginWait k).i = s.i := by unfold State.beginWait; split <;> rfl
@[simp] theorem beginWait_pc (k : Key) : (s.beginWait k).pc = s.pc := by unfold State.beginWait; split <;> rfl
@[simp] theorem beginWait_stack (k : Key) : (s.beginWait k).stack = s.stack := by unfold State.beginWait; split <;> rfl
@[simp] theorem beginWait_disp (k : Key) : (s.beginWait k).disp = s.disp := by unfold State.beginWait; split <;> rfl
@[simp] theorem beginWait_keys (k : Key) : (s.beginWait k).keys = s.keys := by unfold State.beginWait; split <;> rfl
@[simp] theorem beginWait_dt (k : Key) : (s.beginWait k).dt = s.dt := by unfold State.beginWait; split <;> rfl
@[simp] theorem beginWait_st (k : Key) : (s.beginWait k).st = s.st := by unfold State.beginWait; split <;> rfl
@[simp] theorem beginWait_running (k : Key) : (s.beginWait k).running = s.running := by unfold State.beginWait; split <;> rfl
@[simp] theorem beginWait_fault (k : Key) : (s.beginWait k).fault = s.fault := by unfold State.beginWait; split <;> rfl
@[simp] theorem beginWait_delay (k : Key) : (s.beginWait k).delay = s.delay := by unfold State.beginWait; split <;> rfl
@[simp] theorem beginWait_cfg (k : Key) : (s.beginWait k).cfg = s.cfg := by unfold State.beginWait; split <;> rfl
@[simp] theorem beginWait_env (k : Key) : (s.beginWait k).env = s.env := by unfold State.beginWait; split <;> rfl
@[simp] theorem consumeRand_env_inputs : s.consumeRand.env.inputs = s.env.inputs := by unfold State.consumeRand; split <;> rfl
@[simp] theorem consumeRand_env_unscheduled : s.consumeRand.env.unscheduled = s.env.unscheduled := by unfold State.consumeRand; split <;> rfl
@[simp] theorem consumeRand_env_turn : s.consumeRand.env.turn = s.env.turn := by unfold State.consumeRand; split <;> rfl
@[simp] theorem consumeRand_env_trace : s.consumeRand.env.trace = s.env.trace := by unfold State.consumeRand; split <;> rfl
@[simp] theorem consumeRand_env_replies : s.consumeRand.env.replies = s.env.replies := by unfold State.consumeRand; split <;> rfl
@[simp] theorem consumeRand_env_frames : s.consumeRand.env.frames = s.env.frames := by unfold State.consumeRand; split <;> rfl
@[simp] theorem consumeRand_env_beeps : s.consumeRand.env.beeps = s.env.beeps := by unfold State.consumeRand; split <;> rfl
@[simp] theorem skipIf_pc (c : Bool) : (s.skipIf c).pc = if c then s.pc + 2 else s.pc := by cases c <;> rfl

end Sys2Proof.Machine.State
end

