-- ==== Sys2Proof/Laws/Channels.lean ====
section
/-! SUPPORT. Channels: what offering and taking an event can do, and that both keep a channel lawful (60_exceptions.md R353). -/

namespace Sys2Proof.Machine

variable {α : Type}

/-- Everything an offer can do. -/
theorem Channel.offer_cases (cap : Nat) (loss : Loss) (ch : Channel α) (x : α) :
    (ch.offer cap loss x).delivered = ch.delivered ∧
    ((ch.offer cap loss x).pending = ch.pending ∨
      (ch.pending.length < cap ∧ (ch.offer cap loss x).pending = ch.pending ++ [x]) ∨
      (cap ≤ ch.pending.length ∧ (ch.offer cap loss x).pending = (ch.pending ++ [x]).tail)) := by
  unfold Channel.offer
  cases loss <;> simp only
  · exact ⟨trivial, .inl trivial⟩
  · split
    · exact ⟨rfl, .inr (.inl ⟨‹_›, rfl⟩)⟩
    · exact ⟨rfl, .inl rfl⟩
  · split
    · exact ⟨rfl, .inr (.inl ⟨‹_›, rfl⟩)⟩
    · exact ⟨rfl, .inr (.inr ⟨by omega, rfl⟩)⟩

/-- An offer keeps a channel within its capacity. -/
theorem Channel.offer_room {cap : Nat} {ch : Channel α} (h : ch.pending.length ≤ cap) (loss : Loss) (x : α) :
    (ch.offer cap loss x).pending.length ≤ cap := by
  rcases (Channel.offer_cases cap loss ch x).2 with h' | ⟨h', e⟩ | ⟨h', e⟩
  · rw [h']; exact h
  · rw [e]; simp; omega
  · rw [e]; simp; omega

/-- After an offer the channel still holds an in-order subsequence of what was offered. -/
theorem Channel.offer_sublist {ch : Channel α} {offered : List α} (h : (ch.delivered ++ ch.pending).Sublist offered)
    (cap : Nat) (loss : Loss) (x : α) :
    ((ch.offer cap loss x).delivered ++ (ch.offer cap loss x).pending).Sublist (offered ++ [x]) := by
  have grown : (ch.delivered ++ (ch.pending ++ [x])).Sublist (offered ++ [x]) := by
    rw [← List.append_assoc]; exact h.append (List.Sublist.refl [x])
  obtain ⟨hd, h' | ⟨-, e⟩ | ⟨-, e⟩⟩ := Channel.offer_cases cap loss ch x
  · rw [hd, h']; exact h.trans (List.sublist_append_left _ _)
  · rw [hd, e]; exact grown
  · rw [hd, e]; exact ((List.Sublist.refl _).append (List.tail_sublist _)).trans grown

/-- Taking an event moves it from the undelivered to the delivered ones. -/
theorem Channel.take_append (ch : Channel α) : ch.take.delivered ++ ch.take.pending = ch.delivered ++ ch.pending := by
  unfold Channel.take
  split
  · rfl
  · rename_i h; simp [h]

theorem Channel.take_pending (ch : Channel α) : ch.take.pending = ch.pending.tail := by
  unfold Channel.take
  split <;> simp_all

theorem Channel.delivered_prefix_take (ch : Channel α) : ch.delivered <+: ch.take.delivered := by
  unfold Channel.take
  split
  · exact List.prefix_refl _
  · exact List.prefix_append _ _

@[simp] theorem framesOf_append (a b : List Event) : framesOf (a ++ b) = framesOf a ++ framesOf b := by
  simp [framesOf]

@[simp] theorem beepsOf_append (a b : List Event) : beepsOf (a ++ b) = beepsOf a ++ beepsOf b := by
  simp [beepsOf]

@[simp] theorem framesOf_frame (d : Display) : framesOf [.frame d] = [d] := rfl
@[simp] theorem framesOf_beep (b : Bool) : framesOf [.beep b] = [] := rfl
@[simp] theorem framesOf_fatal (c : Cause) (a w : Word) : framesOf [.fatal c a w] = [] := rfl
@[simp] theorem beepsOf_frame (d : Display) : beepsOf [.frame d] = [] := rfl
@[simp] theorem beepsOf_beep (b : Bool) : beepsOf [.beep b] = [b] := rfl
@[simp] theorem beepsOf_fatal (c : Cause) (a w : Word) : beepsOf [.fatal c a w] = [] := rfl

end Sys2Proof.Machine
end

