-- ==== Sys2Proof/Laws/Registers.lean ====
section
/-! SUPPORT. Reading a register, a key or a pixel after a write, and reads that an update does not reach. -/

namespace Sys2Proof.Machine

theorem State.readV_writeV (s : State) (x r : Reg) (b : Byte) :
    (s.writeV x b).readV r = if r = x then b else s.readV r := by
  simp only [State.readV, State.writeV, Fin.getElem_fin, Vector.getElem_set]
  by_cases h : r = x
  · simp [h]
  · have : x.val ≠ r.val := fun h' => h (Fin.ext h'.symm)
    simp [h, this]

@[simp] theorem State.readV_writeV_same (s : State) (x : Reg) (b : Byte) : (s.writeV x b).readV x = b := by
  simp [State.readV_writeV]

theorem State.readV_writeV_of_ne (s : State) {x r : Reg} (b : Byte) (h : r ≠ x) :
    (s.writeV x b).readV r = s.readV r := by
  simp [State.readV_writeV, h]

/-- The delay after a SPEED, as the integer the spec's formula gives (60_exceptions.md R358). -/
theorem State.clampedDelay_cast (s : State) (d : Int) :
    (s.clampedDelay d : Int) = min (s.cfg.delayMax : Int) (max (s.cfg.delayMin : Int) (s.delay + d)) := by
  unfold State.clampedDelay
  omega

/-- A read depends on the register file alone. -/
theorem State.readV_congr {s t : State} (h : t.v = s.v) (r : Reg) : t.readV r = s.readV r := by
  simp [State.readV, h]

theorem State.key_keyEvent (s : State) (k j : Key) (p : Bool) :
    (s.keyEvent k p).key j = if j = k then p else s.key j := by
  simp only [State.key, State.keyEvent, Fin.getElem_fin, Vector.getElem_set]
  by_cases h : j = k
  · simp [h]
  · have : k.val ≠ j.val := fun h' => h (Fin.ext h'.symm)
    simp [h, this]

theorem State.key_congr {s t : State} (h : t.keys = s.keys) (k : Key) : t.key k = s.key k := by
  simp [State.key, h]

theorem Display.pixel_flip (d : Display) (r r' : Fin 32) (c c' : Fin 64) :
    (d.flip r c).pixel r' c' = if r' = r ∧ c' = c then !d.pixel r c else d.pixel r' c' := by
  simp only [Display.pixel, Display.flip, Fin.getElem_fin]
  by_cases hr : r' = r
  · subst hr
    by_cases hc : c' = c
    · simp [hc]
    · have : c.val ≠ c'.val := fun h' => hc (Fin.ext h'.symm)
      simp [hc, this]
  · have : r.val ≠ r'.val := fun h' => hr (Fin.ext h'.symm)
    simp [hr, Vector.getElem_set_ne, this]

@[simp] theorem Display.pixel_clear (r : Fin 32) (c : Fin 64) : Display.clear.pixel r c = false := by
  simp [Display.pixel, Display.clear]

/-- The least pressed key is pressed, and no lesser one is (45_keys_timers.md R303). -/
theorem State.leastKey_eq_some {s : State} {k : Key} (hk : s.key k = true) (hl : ∀ j, j < k → s.key j = false) :
    s.leastKey = some k := by
  unfold State.leastKey
  rw [List.find?_eq_some_iff_getElem]
  refine ⟨hk, k.val, by simp, by simp, fun j hj => ?_⟩
  simpa using hl ⟨j, by omega⟩ hj

theorem State.leastKey_eq_none {s : State} : s.leastKey = none ↔ ∀ k, s.key k = false := by
  simp [State.leastKey, List.find?_eq_none]

theorem State.key_of_leastKey {s : State} {k : Key} (h : s.leastKey = some k) : s.key k = true :=
  List.find?_some h

theorem mem_regsUpTo {x k : Reg} : k ∈ regsUpTo x ↔ k ≤ x := by simp [regsUpTo]

end Sys2Proof.Machine
end

