-- ==== Sys2Proof/Laws/Draw.lean ====
section
/-! SUPPORT. What the drawing loops do, pixel by pixel: a sprite at most 8 wide and 32 tall never meets itself, so each covered
pixel is inverted once (44_display.md R274). -/

namespace Sys2Proof.Machine

/-- A set bit among the columns `cs` of the byte `b`, drawn from column `x0`, lands on column `c'`. -/
def ColHit (b : Byte) (x0 : Nat) (cs : List Nat) (c' : Fin 64) : Prop :=
  ∃ c ∈ cs, spriteBit b c = true ∧ c' = wrapCol (x0 + c)

/-- A set bit of the sprite rows `bs`, drawn from row `y0` and column `x0`, lands on the pixel at `r'`, `c'`. -/
def SpriteHit (bs : List Byte) (y0 x0 : Nat) (r' : Fin 32) (c' : Fin 64) : Prop :=
  ∃ (k : Nat) (h : k < bs.length), r' = wrapRow (y0 + k) ∧ ColHit bs[k] x0 (List.range 8) c'

theorem wrapCol_inj {x0 a b : Nat} (ha : a < 8) (hb : b < 8) (h : wrapCol (x0 + a) = wrapCol (x0 + b)) : a = b := by
  have := congrArg Fin.val h
  simp only [wrapCol, Fin.val_ofNat] at this
  omega

theorem wrapRow_inj {y0 a b : Nat} (ha : a < 32) (hb : b < 32) (h : wrapRow (y0 + a) = wrapRow (y0 + b)) : a = b := by
  have := congrArg Fin.val h
  simp only [wrapRow, Fin.val_ofNat] at this
  omega

/-- Plotting inverts one pixel. -/
theorem Canvas.pixel_plot (cv : Canvas) (r r' : Fin 32) (c c' : Fin 64) :
    (cv.plot r c).disp.pixel r' c' = if r' = r ∧ c' = c then !cv.disp.pixel r c else cv.disp.pixel r' c' :=
  Display.pixel_flip cv.disp r r' c c'

/-- One sprite byte: the pixels it hits are inverted, the others stay, and a collision is recorded exactly when it hits a set
pixel. -/
theorem Canvas.drawCols_spec (cv : Canvas) (b : Byte) (r : Fin 32) (x0 : Nat) (cs : List Nat) (hn : cs.Nodup)
    (h8 : ∀ c ∈ cs, c < 8) :
    (∀ c', ColHit b x0 cs c' → (cv.drawCols b r x0 cs).disp.pixel r c' = !cv.disp.pixel r c') ∧
    (∀ r' c', ¬(r' = r ∧ ColHit b x0 cs c') → (cv.drawCols b r x0 cs).disp.pixel r' c' = cv.disp.pixel r' c') ∧
    ((cv.drawCols b r x0 cs).collision = true ↔
      cv.collision = true ∨ ∃ c', ColHit b x0 cs c' ∧ cv.disp.pixel r c' = true) := by
  induction cs generalizing cv with
  | nil => simp [Canvas.drawCols, ColHit]
  | cons c cs ih =>
    have hn' := List.nodup_cons.mp hn
    have hc8 := h8 c (by simp)
    by_cases hb : spriteBit b c = true
    · obtain ⟨i1, i2, i3⟩ := ih (cv.plot r (wrapCol (x0 + c))) hn'.2 fun d hd => h8 d (by simp [hd])
      have hstep : cv.drawCols b r x0 (c :: cs) = (cv.plot r (wrapCol (x0 + c))).drawCols b r x0 cs := by
        simp [Canvas.drawCols, hb]
      have fresh : ¬ColHit b x0 cs (wrapCol (x0 + c)) := by
        rintro ⟨d, hd, -, e⟩
        exact hn'.1 (wrapCol_inj hc8 (h8 d (by simp [hd])) e ▸ hd)
      have split (c') : ColHit b x0 (c :: cs) c' ↔ c' = wrapCol (x0 + c) ∨ ColHit b x0 cs c' := by
        simp [ColHit, hb]
      have away {c'} (h : ColHit b x0 cs c') : c' ≠ wrapCol (x0 + c) := fun e => fresh (e ▸ h)
      rw [hstep]
      refine ⟨fun c' h => ?_, fun r' c' h => ?_, ?_⟩
      · rcases (split c').mp h with rfl | h
        · rw [i2 r _ (by simp [fresh]), Canvas.pixel_plot]; simp
        · rw [i1 c' h, Canvas.pixel_plot]; simp [away h]
      · rw [split] at h
        rw [i2 r' c' (fun h' => h ⟨h'.1, .inr h'.2⟩), Canvas.pixel_plot, if_neg fun h' => h ⟨h'.1, .inl h'.2⟩]
      · rw [i3]
        simp only [split, or_and_right, exists_or, exists_eq_left]
        have hcol : (cv.plot r (wrapCol (x0 + c))).collision = (cv.collision || cv.disp.pixel r (wrapCol (x0 + c))) := rfl
        have hrest : (∃ c', ColHit b x0 cs c' ∧ (cv.plot r (wrapCol (x0 + c))).disp.pixel r c' = true) ↔
            ∃ c', ColHit b x0 cs c' ∧ cv.disp.pixel r c' = true :=
          exists_congr fun c' => and_congr_right fun h => by rw [Canvas.pixel_plot]; simp [away h]
        rw [hcol, hrest, Bool.or_eq_true, or_assoc]
    · have hstep : cv.drawCols b r x0 (c :: cs) = cv.drawCols b r x0 cs := by simp [Canvas.drawCols, hb]
      have split (c') : ColHit b x0 (c :: cs) c' ↔ ColHit b x0 cs c' := by simp [ColHit, hb]
      simp only [hstep, split]
      exact ih cv hn'.2 fun d hd => h8 d (by simp [hd])

/-- A whole sprite of at most 32 rows: the pixels it hits are inverted, the others stay, and a collision is recorded exactly when
it hits a set pixel. -/
theorem Canvas.drawRows_spec (cv : Canvas) (y0 x0 : Nat) (bs : List Byte) (h32 : bs.length ≤ 32) :
    (∀ r c, SpriteHit bs y0 x0 r c → (cv.drawRows y0 x0 bs).disp.pixel r c = !cv.disp.pixel r c) ∧
    (∀ r c, ¬SpriteHit bs y0 x0 r c → (cv.drawRows y0 x0 bs).disp.pixel r c = cv.disp.pixel r c) ∧
    ((cv.drawRows y0 x0 bs).collision = true ↔
      cv.collision = true ∨ ∃ r c, SpriteHit bs y0 x0 r c ∧ cv.disp.pixel r c = true) := by
  induction bs generalizing cv y0 with
  | nil => simp [Canvas.drawRows, SpriteHit]
  | cons b bs ih =>
    simp only [List.length_cons] at h32
    obtain ⟨f1, f2, f3⟩ := Canvas.drawCols_spec cv b (wrapRow y0) x0 (List.range 8) (by decide) (by simp)
    obtain ⟨i1, i2, i3⟩ := ih (cv.drawCols b (wrapRow y0) x0 (List.range 8)) (y0 + 1) (by omega)
    have split (r c) : SpriteHit (b :: bs) y0 x0 r c ↔
        (r = wrapRow y0 ∧ ColHit b x0 (List.range 8) c) ∨ SpriteHit bs (y0 + 1) x0 r c := by
      constructor
      · rintro ⟨k, hk, e, hc⟩
        cases k with
        | zero => exact .inl ⟨e, hc⟩
        | succ k => exact .inr ⟨k, by simpa using hk, by rw [e]; congr 1; omega, by simpa using hc⟩
      · rintro (⟨e, hc⟩ | ⟨k, hk, e, hc⟩)
        · exact ⟨0, by simp, e, hc⟩
        · exact ⟨k + 1, by simpa using hk, by rw [e]; congr 1; omega, by simpa using hc⟩
    have away {r c} (h : SpriteHit bs (y0 + 1) x0 r c) : r ≠ wrapRow y0 := by
      rintro rfl
      obtain ⟨k, hk, e, -⟩ := h
      have : (0 : Nat) = k + 1 :=
        wrapRow_inj (y0 := y0) (by omega) (by omega) (by rw [Nat.add_zero, e]; congr 1; omega)
      omega
    have first_only (r c) (h : SpriteHit bs (y0 + 1) x0 r c) : ¬(r = wrapRow y0 ∧ ColHit b x0 (List.range 8) c) :=
      fun h' => away h h'.1
    rw [show cv.drawRows y0 x0 (b :: bs) = (cv.drawCols b (wrapRow y0) x0 (List.range 8)).drawRows (y0 + 1) x0 bs from rfl]
    refine ⟨fun r c h => ?_, fun r c h => ?_, ?_⟩
    · rcases (split r c).mp h with ⟨rfl, hc⟩ | h
      · rw [i2 _ _ fun h' => away h' rfl, f1 c hc]
      · rw [i1 r c h, f2 r c (first_only r c h)]
    · rw [split, not_or] at h
      rw [i2 r c h.2, f2 r c h.1]
    · have hrest : (∃ r c, SpriteHit bs (y0 + 1) x0 r c ∧
            (cv.drawCols b (wrapRow y0) x0 (List.range 8)).disp.pixel r c = true) ↔
          ∃ r c, SpriteHit bs (y0 + 1) x0 r c ∧ cv.disp.pixel r c = true :=
        exists_congr fun r => exists_congr fun c => and_congr_right fun h => by rw [f2 r c (first_only r c h)]
      rw [i3, f3, hrest, or_assoc]
      refine or_congr_right ?_
      simp only [split, or_and_right, exists_or, and_assoc]
      refine or_congr_left ⟨?_, ?_⟩
      · rintro ⟨c, hc, hp⟩; exact ⟨_, c, rfl, hc, hp⟩
      · rintro ⟨_, c, rfl, hc, hp⟩; exact ⟨c, hc, hp⟩

/-- The sprite of DXYN hits a pixel exactly when it covers it, loops or no loops (44_display.md R273). -/
theorem spriteHit_iff_covers (s : State) (x y : Reg) (n : Nat) (r : Fin 32) (c : Fin 64) :
    SpriteHit (s.sprite n) (s.readV y).toNat (s.readV x).toNat r c ↔ SpriteCovers s x y n r c := by
  simp only [SpriteHit, ColHit, SpriteCovers, State.sprite, List.length_map, List.length_range, List.getElem_map,
    List.getElem_range, List.mem_range, spriteBit, State.ea, wrapRow, wrapCol, Fin.ext_iff, Fin.val_ofNat]
  constructor
  · rintro ⟨k, hk, e, j, hj, hb, e'⟩; exact ⟨k, j, hk, hj, e, e', hb⟩
  · rintro ⟨k, j, hk, hj, e, e', hb⟩; exact ⟨k, hk, e, j, hj, hb, e'⟩

end Sys2Proof.Machine
end

