-- ==== Sys2Proof/Laws/Encoding.lean ====
section
/-! SUPPORT. The fields of an encoded word, and words as numbers. -/

namespace Sys2Proof

/-! ### Words as numbers -/

theorem toNat_append {n m : Nat} (a : BitVec n) (b : BitVec m) : (a ++ b).toNat = a.toNat * 2 ^ m + b.toNat := by
  rw [BitVec.toNat_append, ← Nat.shiftLeft_add_eq_or_of_lt b.isLt, Nat.shiftLeft_eq]

theorem toNat_encodeAddr (op : BitVec 4) (nnn : BitVec 12) :
    (encodeAddr op nnn).toNat = op.toNat * 4096 + nnn.toNat := toNat_append op nnn

theorem toNat_encodeRegByte (op : BitVec 4) (x : Reg) (b : Byte) :
    (encodeRegByte op x b).toNat = op.toNat * 4096 + x.val * 256 + b.toNat := by
  have h := toNat_append (op ++ BitVec.ofFin (w := 4) x) b
  rw [toNat_append op] at h
  simp only [encodeRegByte, h, BitVec.toNat_ofFin]
  omega

theorem toNat_encodeRegReg (op : BitVec 4) (x y : Reg) (n : BitVec 4) :
    (encodeRegReg op x y n).toNat = op.toNat * 4096 + x.val * 256 + y.val * 16 + n.toNat := by
  have h := toNat_append ((op ++ BitVec.ofFin (w := 4) x) ++ BitVec.ofFin (w := 4) y) n
  rw [toNat_append (op ++ BitVec.ofFin (w := 4) x), toNat_append op] at h
  simp only [encodeRegReg, h, BitVec.toNat_ofFin]
  omega

theorem toNat_wordOfBytes (hi lo : Byte) : (wordOfBytes hi lo).toNat = 256 * hi.toNat + lo.toNat := by
  have := toNat_append hi lo
  simp only [wordOfBytes, this]; omega

theorem toNat_fieldOp (w : Word) : (fieldOp w).toNat = w.toNat / 4096 := by
  have := w.isLt
  simp only [fieldOp, BitVec.extractLsb'_toNat, Nat.shiftRight_eq_div_pow]; omega

theorem val_fieldX (w : Word) : (fieldX w).val = w.toNat / 256 % 16 := by
  change (w.extractLsb' 8 4).toNat = _
  simp only [BitVec.extractLsb'_toNat, Nat.shiftRight_eq_div_pow]

theorem val_fieldY (w : Word) : (fieldY w).val = w.toNat / 16 % 16 := by
  change (w.extractLsb' 4 4).toNat = _
  simp only [BitVec.extractLsb'_toNat, Nat.shiftRight_eq_div_pow]

theorem toNat_fieldN (w : Word) : (fieldN w).toNat = w.toNat % 16 := by
  simp [fieldN, BitVec.extractLsb'_toNat]

theorem toNat_fieldNN (w : Word) : (fieldNN w).toNat = w.toNat % 256 := by
  simp [fieldNN, BitVec.extractLsb'_toNat]

theorem toNat_fieldNNN (w : Word) : (fieldNNN w).toNat = w.toNat % 4096 := by
  simp [fieldNNN, BitVec.extractLsb'_toNat]

/-! ### Fields of encoded words (30_encoding.md R101, R102) -/

@[simp] theorem fieldOp_encodeAddr (op : BitVec 4) (nnn : BitVec 12) : fieldOp (encodeAddr op nnn) = op := by
  apply BitVec.eq_of_toNat_eq
  have := nnn.isLt
  rw [toNat_fieldOp, toNat_encodeAddr]; omega

@[simp] theorem fieldNNN_encodeAddr (op : BitVec 4) (nnn : BitVec 12) : fieldNNN (encodeAddr op nnn) = nnn := by
  apply BitVec.eq_of_toNat_eq
  have := nnn.isLt
  rw [toNat_fieldNNN, toNat_encodeAddr]; omega

@[simp] theorem fieldOp_encodeRegByte (op : BitVec 4) (x : Reg) (b : Byte) : fieldOp (encodeRegByte op x b) = op := by
  apply BitVec.eq_of_toNat_eq
  have := b.isLt
  have := x.isLt
  rw [toNat_fieldOp, toNat_encodeRegByte]; omega

@[simp] theorem fieldX_encodeRegByte (op : BitVec 4) (x : Reg) (b : Byte) : fieldX (encodeRegByte op x b) = x := by
  apply Fin.ext
  have := b.isLt
  have := x.isLt
  rw [val_fieldX, toNat_encodeRegByte]; omega

@[simp] theorem fieldNN_encodeRegByte (op : BitVec 4) (x : Reg) (b : Byte) : fieldNN (encodeRegByte op x b) = b := by
  apply BitVec.eq_of_toNat_eq
  have := b.isLt
  rw [toNat_fieldNN, toNat_encodeRegByte]; omega

@[simp] theorem fieldOp_encodeRegReg (op : BitVec 4) (x y : Reg) (n : BitVec 4) : fieldOp (encodeRegReg op x y n) = op := by
  apply BitVec.eq_of_toNat_eq
  have := n.isLt
  have := x.isLt
  have := y.isLt
  rw [toNat_fieldOp, toNat_encodeRegReg]; omega

@[simp] theorem fieldX_encodeRegReg (op : BitVec 4) (x y : Reg) (n : BitVec 4) : fieldX (encodeRegReg op x y n) = x := by
  apply Fin.ext
  have := n.isLt
  have := x.isLt
  have := y.isLt
  rw [val_fieldX, toNat_encodeRegReg]; omega

@[simp] theorem fieldY_encodeRegReg (op : BitVec 4) (x y : Reg) (n : BitVec 4) : fieldY (encodeRegReg op x y n) = y := by
  apply Fin.ext
  have := n.isLt
  have := y.isLt
  rw [val_fieldY, toNat_encodeRegReg]; omega

@[simp] theorem fieldN_encodeRegReg (op : BitVec 4) (x y : Reg) (n : BitVec 4) : fieldN (encodeRegReg op x y n) = n := by
  apply BitVec.eq_of_toNat_eq
  have := n.isLt
  rw [toNat_fieldN, toNat_encodeRegReg]; omega

/-! ### Words from their fields -/

theorem encodeAddr_fields (w : Word) : encodeAddr (fieldOp w) (fieldNNN w) = w := by
  apply BitVec.eq_of_toNat_eq
  rw [toNat_encodeAddr, toNat_fieldOp, toNat_fieldNNN]; omega

theorem encodeRegByte_fields (w : Word) : encodeRegByte (fieldOp w) (fieldX w) (fieldNN w) = w := by
  apply BitVec.eq_of_toNat_eq
  rw [toNat_encodeRegByte, toNat_fieldOp, val_fieldX, toNat_fieldNN]; omega

theorem encodeRegReg_fields (w : Word) : encodeRegReg (fieldOp w) (fieldX w) (fieldY w) (fieldN w) = w := by
  apply BitVec.eq_of_toNat_eq
  rw [toNat_encodeRegReg, toNat_fieldOp, val_fieldX, val_fieldY, toNat_fieldN]; omega

/-- The two bytes of a word give it back (20_memory.md R74). -/
@[simp] theorem wordOfBytes_highByte_lowByte (w : Word) : wordOfBytes (highByte w) (lowByte w) = w := by
  apply BitVec.eq_of_toNat_eq
  have := w.isLt
  rw [toNat_wordOfBytes]
  simp only [highByte, lowByte, BitVec.extractLsb'_toNat, Nat.shiftRight_eq_div_pow]; omega

@[simp] theorem highByte_wordOfBytes (hi lo : Byte) : highByte (wordOfBytes hi lo) = hi := by
  apply BitVec.eq_of_toNat_eq
  have := lo.isLt
  have := hi.isLt
  simp only [highByte, BitVec.extractLsb'_toNat, Nat.shiftRight_eq_div_pow, toNat_wordOfBytes]; omega

@[simp] theorem lowByte_wordOfBytes (hi lo : Byte) : lowByte (wordOfBytes hi lo) = lo := by
  apply BitVec.eq_of_toNat_eq
  have := lo.isLt
  simp only [lowByte, BitVec.extractLsb'_toNat, Nat.shiftRight_eq_div_pow, toNat_wordOfBytes]; omega

/-! ### Rows of the opcode map and fields (30_encoding.md R105) -/

/-- The mask F000 keeps the major opcode. -/
theorem and_op (w : Word) : w &&& 0xF000#16 = encodeAddr (fieldOp w) 0#12 := by
  apply BitVec.eq_of_getLsbD_eq
  intro j hj
  simp only [encodeAddr, BitVec.getLsbD_and, fieldOp, BitVec.getLsbD_append, BitVec.getLsbD_extractLsb']
  interval_cases j <;> simp [BitVec.getLsbD] <;> exact fun _ => rfl

/-- The mask F00F keeps the major opcode and nibble0. -/
theorem and_op_nibble (w : Word) : w &&& 0xF00F#16 = encodeRegReg (fieldOp w) 0 0 (fieldN w) := by
  apply BitVec.eq_of_getLsbD_eq
  intro j hj
  simp only [encodeRegReg, BitVec.getLsbD_and, fieldOp, fieldN, BitVec.getLsbD_append, BitVec.getLsbD_extractLsb']
  interval_cases j <;> simp [BitVec.getLsbD] <;> exact fun _ => rfl

/-- The mask F0FF keeps the major opcode and the low byte. -/
theorem and_op_byte (w : Word) : w &&& 0xF0FF#16 = encodeRegByte (fieldOp w) 0 (fieldNN w) := by
  apply BitVec.eq_of_getLsbD_eq
  intro j hj
  simp only [encodeRegByte, BitVec.getLsbD_and, fieldOp, fieldNN, BitVec.getLsbD_append, BitVec.getLsbD_extractLsb']
  interval_cases j <;> simp [BitVec.getLsbD] <;> exact fun _ => rfl

/-- A word selects a row that fixes the major opcode exactly when it has that major opcode. -/
theorem selects_op {w : Word} {op : BitVec 4} :
    OpRow.selects ⟨0xF000#16, encodeAddr op 0#12⟩ w = true ↔ fieldOp w = op := by
  rw [OpRow.selects, beq_iff_eq, and_op]
  exact ⟨fun h => by simpa using congrArg fieldOp h, fun h => by rw [h]⟩

/-- A word selects a row that fixes the major opcode and nibble0 exactly when it has both. -/
theorem selects_op_nibble {w : Word} {op n : BitVec 4} :
    OpRow.selects ⟨0xF00F#16, encodeRegReg op 0 0 n⟩ w = true ↔ fieldOp w = op ∧ fieldN w = n := by
  rw [OpRow.selects, beq_iff_eq, and_op_nibble]
  exact ⟨fun h => ⟨by simpa using congrArg fieldOp h, by simpa using congrArg fieldN h⟩, fun h => by rw [h.1, h.2]⟩

/-- A word selects a row that fixes the major opcode and the low byte exactly when it has both. -/
theorem selects_op_byte {w : Word} {op : BitVec 4} {b : Byte} :
    OpRow.selects ⟨0xF0FF#16, encodeRegByte op 0 b⟩ w = true ↔ fieldOp w = op ∧ fieldNN w = b := by
  rw [OpRow.selects, beq_iff_eq, and_op_byte]
  exact ⟨fun h => ⟨by simpa using congrArg fieldOp h, by simpa using congrArg fieldNN h⟩, fun h => by rw [h.1, h.2]⟩

/-- The row of every instruction is one of the 34. -/
theorem opRow_mem (i : Instr) : opRow i ∈ opcodeMap := by
  cases i <;> simp only [opRow] <;> decide

end Sys2Proof
end

