-- ==== Sys2Proof/Laws/Memory.lean ====
section
/-! SUPPORT. The laws of memory: a read after a write, and that every memory operation keeps the canonical form. -/

namespace Sys2Proof.Machine

variable {c : Config}

/-- A location that no entry names reads as the reset contents. -/
theorem Memory.get_of_forall_ne {m : Memory} {l : Nat} (h : ∀ p ∈ m, p.1 ≠ l) : Memory.get c m l = resetByte c l := by
  induction m with
  | nil => rfl
  | cons p m ih =>
    have hp := h p (by simp)
    simp [Memory.get, hp, ih fun q hq => h q (by simp [hq])]

/-- Reading a location after writing one (20_memory.md R72, R73). -/
theorem Memory.get_put {m : Memory} (hm : m.Pairwise (fun p q => p.1 < q.1)) (l l' : Nat) (x : Byte) :
    Memory.get c (Memory.put c m l x) l' = if l' = l then x else Memory.get c m l' := by
  induction m with
  | nil =>
    by_cases h : x = resetByte c l <;> by_cases h' : l' = l <;> simp_all [Memory.put, Memory.get, eq_comm]
  | cons p m ih =>
    obtain ⟨a, b⟩ := p
    rw [List.pairwise_cons] at hm
    have hget : a = l → Memory.get c m l = resetByte c l := fun e =>
      Memory.get_of_forall_ne fun q hq => by have := hm.1 q hq; simp only at this; omega
    have hget' : l < a → Memory.get c m l = resetByte c l := fun e =>
      Memory.get_of_forall_ne fun q hq => by have := hm.1 q hq; simp only at this; omega
    unfold Memory.put
    by_cases h1 : a < l
    · by_cases h2 : a = l'
      · have h3 : l' ≠ l := by omega
        subst h2
        simp [h1, Memory.get, h3]
      · simp [h1, Memory.get, h2, ih hm.2]
    · by_cases h2 : a = l
      · subst h2
        by_cases h3 : x = resetByte c a
        · by_cases h4 : l' = a
          · simp [h3, h4, hget rfl]
          · simp [h3, h4, Memory.get, Ne.symm h4]
        · by_cases h4 : l' = a
          · simp [h3, h4, Memory.get]
          · simp [h3, h4, Memory.get, Ne.symm h4]
      · have h0 : l < a := by omega
        by_cases h3 : x = resetByte c l
        · by_cases h4 : l' = l
          · subst h4; simp [h1, h2, h3, Memory.get, hget' h0]
          · simp [h1, h2, h3, h4]
        · by_cases h4 : l' = l
          · simp [h1, h2, h3, h4, Memory.get]
          · simp [h1, h2, h3, h4, Memory.get, Ne.symm h4]

/-- An entry after a write is the one written, not equal to the reset contents, or an entry from before at another location. -/
theorem Memory.mem_put {m : Memory} {l : Nat} {x : Byte} {p : Host.Cell} (h : p ∈ Memory.put c m l x) :
    (p = (l, x) ∧ x ≠ resetByte c l) ∨ p ∈ m := by
  induction m with
  | nil =>
    unfold Memory.put at h
    split at h <;> simp_all
  | cons q m ih =>
    obtain ⟨a, b⟩ := q
    unfold Memory.put at h
    split at h
    · rcases List.mem_cons.mp h with h | h
      · simp [h]
      · rcases ih h with h | h <;> simp [h]
    · split at h
      · split at h
        · simp [h]
        · rcases List.mem_cons.mp h with h | h <;> simp_all
      · split at h
        · exact .inr h
        · rcases List.mem_cons.mp h with h | h <;> simp_all

/-- Writing a byte at a location of the 4096 keeps the canonical form. -/
theorem Memory.wf_put {m : Memory} (hm : Memory.wf c m) {l : Nat} (hl : l < memSize) (x : Byte) :
    Memory.wf c (Memory.put c m l x) := by
  refine ⟨?_, fun p hp => ?_⟩
  · have hs := hm.1
    clear hm hl
    induction m with
    | nil => unfold Memory.put; split <;> simp
    | cons q m ih =>
      obtain ⟨a, b⟩ := q
      rw [List.pairwise_cons] at hs
      unfold Memory.put
      split
      · rename_i h1
        refine List.pairwise_cons.mpr ⟨fun p hp => ?_, ih hs.2⟩
        rcases Memory.mem_put hp with ⟨rfl, _⟩ | h
        · exact h1
        · exact hs.1 p h
      · split
        · rename_i h2
          subst h2
          split
          · exact hs.2
          · exact List.pairwise_cons.mpr hs
        · split
          · exact List.pairwise_cons.mpr hs
          · refine List.pairwise_cons.mpr ⟨fun p hp => ?_, List.pairwise_cons.mpr hs⟩
            rcases List.mem_cons.mp hp with rfl | h
            · simp only; omega
            · have := hs.1 p h; simp only at this ⊢; omega
  · rcases Memory.mem_put hp with ⟨rfl, hx⟩ | h
    · exact ⟨hl, hx⟩
    · exact hm.2 p h

theorem loc_lt (a : Nat) : loc a < memSize := Nat.mod_lt _ (by decide)

/-- `MemRead` after `MemWrite` (20_memory.md R73). -/
theorem State.memRead_memWrite {s : State} (hm : Memory.wf s.cfg s.mem) (a b : Nat) (x : Byte) :
    (s.memWrite a x).memRead b = if ¬s.writeIgnored a ∧ loc b = loc a then x else s.memRead b := by
  unfold State.memWrite State.memRead
  by_cases h : s.writeIgnored a = true
  · simp [h]
  · simp only [h, Bool.false_eq_true, if_false]
    rw [Memory.get_put hm.1]
    by_cases h' : loc b = loc a <;> simp [h']

/-- A read depends on memory and the parameters alone. -/
theorem State.memRead_congr {s t : State} (h : t.mem = s.mem) (h' : t.cfg = s.cfg) (a : Nat) :
    t.memRead a = s.memRead a := by
  simp [State.memRead, h, h']

theorem State.memWrite_wf {s : State} (hm : Memory.wf s.cfg s.mem) (a : Nat) (x : Byte) :
    Memory.wf (s.memWrite a x).cfg (s.memWrite a x).mem := by
  rw [State.memWrite_cfg]
  unfold State.memWrite
  split
  · exact hm
  · exact Memory.wf_put hm (loc_lt a) x

theorem State.storeBytes_wf {s : State} (hm : Memory.wf s.cfg s.mem) (a : Nat) (bs : List Byte) :
    Memory.wf (s.storeBytes a bs).cfg (s.storeBytes a bs).mem := by
  induction bs generalizing s a with
  | nil => exact hm
  | cons b bs ih => exact ih (State.memWrite_wf hm a b) (a + 1)

theorem State.placeWord_wf {s : State} (hm : Memory.wf s.cfg s.mem) (p w : Word) :
    Memory.wf (s.placeWord p w).cfg (s.placeWord p w).mem :=
  Memory.wf_put (Memory.wf_put hm (loc_lt _) _) (loc_lt _) _

theorem mem_romCells {a : Nat} {rom : List Byte} {p : Host.Cell} (h : p ∈ romCells c a rom) :
    a ≤ p.1 ∧ p.1 < a + rom.length ∧ p.2 ≠ resetByte c p.1 := by
  induction rom generalizing a with
  | nil => simp [romCells] at h
  | cons b bs ih =>
    unfold romCells at h
    split at h
    · have := ih h
      simp only [List.length_cons]; exact ⟨by omega, by omega, this.2.2⟩
    · rcases List.mem_cons.mp h with rfl | h
      · rename_i hb
        simp only [List.length_cons]; exact ⟨by omega, by omega, hb⟩
      · have := ih h
        simp only [List.length_cons]; exact ⟨by omega, by omega, this.2.2⟩

/-- A ROM that fits leaves memory in canonical form (70_reset_and_hazards.md R392). -/
theorem romCells_wf {a : Nat} {rom : List Byte} (h : a + rom.length ≤ memSize) : Memory.wf c (romCells c a rom) := by
  refine ⟨?_, fun p hp => ?_⟩
  · clear h
    induction rom generalizing a with
    | nil => simp [romCells]
    | cons b bs ih =>
      unfold romCells
      split
      · exact ih
      · refine List.pairwise_cons.mpr ⟨fun p hp => ?_, ih⟩
        have := mem_romCells hp
        simp only; omega
  · have := mem_romCells hp
    exact ⟨by omega, this.2.2⟩

/-- What a loaded ROM reads as: its own bytes, verbatim, and the reset contents elsewhere. -/
theorem get_romCells (a l : Nat) (rom : List Byte) :
    Memory.get c (romCells c a rom) l =
      if h : a ≤ l ∧ l - a < rom.length then rom[l - a] else resetByte c l := by
  induction rom generalizing a with
  | nil => simp [romCells, Memory.get]
  | cons b bs ih =>
    by_cases h0 : l = a
    · subst h0
      unfold romCells
      split
      · rename_i hb
        rw [ih]
        simp [hb]
      · simp [Memory.get]
    · have step : Memory.get c (romCells c a (b :: bs)) l = Memory.get c (romCells c (a + 1) bs) l := by
        by_cases hb : b = resetByte c a
        · simp [romCells, hb]
        · simp [romCells, hb, Memory.get, Ne.symm h0]
      rw [step, ih]
      by_cases h1 : a + 1 ≤ l ∧ l - (a + 1) < bs.length
      · have h2 : a ≤ l ∧ l - a < (b :: bs).length := by simp only [List.length_cons]; omega
        simp only [h1, h2, and_self, dite_true]
        have : l - a = (l - (a + 1)) + 1 := by omega
        simp [this]
      · have h2 : ¬(a ≤ l ∧ l - a < (b :: bs).length) := by simp only [List.length_cons]; omega
        simp only [h1, h2, dite_false]

theorem reset_memory_wf : Memory.wf State.reset.cfg State.reset.mem := by simp [State.reset, State.initial, Memory.wf]

end Sys2Proof.Machine
end

