-- ==== Sys2Proof/Laws/Frames.lean ====
section
/-! SUPPORT. What each shared operation leaves unchanged, said once per operation. -/

namespace Sys2Proof.Machine

theorem UnchangedBut.refl (ps : List Part) (s : State) : UnchangedBut ps s s := by
  intro p _
  cases p <;> simp [Part.same]

theorem Part.same_trans {p : Part} {s t u : State} (h : p.same s t) (h' : p.same t u) : p.same s u := by
  cases p <;> simp_all [Part.same]

theorem UnchangedBut.trans {ps : List Part} {s t u : State} (h : UnchangedBut ps s t) (h' : UnchangedBut ps t u) :
    UnchangedBut ps s u := fun p hp => Part.same_trans (h p hp) (h' p hp)

theorem UnchangedBut.mono {ps qs : List Part} {s t : State} (h : UnchangedBut ps s t) (hs : ps ⊆ qs) :
    UnchangedBut qs s t := fun p hp => h p fun hp' => hp (hs hp')

/-- States that agree on the fields agree on every part. -/
theorem unchangedBut_of_eq {ps : List Part} {s t : State} (h : t = s) : UnchangedBut ps s t := h ▸ UnchangedBut.refl ps s

variable (s : State)

theorem writeV_frame (x : Reg) (b : Byte) : UnchangedBut [.registers] s (s.writeV x b) := by
  intro p hp
  cases p <;> first | exact absurd (by decide) hp | rfl | exact fun _ => rfl | exact fun _ _ => rfl | exact ⟨rfl, rfl⟩

theorem setI_frame (w : Word) : UnchangedBut [.index] s (s.setI w) := by
  intro p hp
  cases p <;> first | exact absurd (by decide) hp | rfl | exact fun _ => rfl | exact fun _ _ => rfl | exact ⟨rfl, rfl⟩

theorem setPc_frame (w : Word) : UnchangedBut [.programCounter] s (s.setPc w) := by
  intro p hp
  cases p <;> first | exact absurd (by decide) hp | rfl | exact fun _ => rfl | exact fun _ _ => rfl | exact ⟨rfl, rfl⟩

theorem setDt_frame (b : Byte) : UnchangedBut [.delayTimer] s (s.setDt b) := by
  intro p hp
  cases p <;> first | exact absurd (by decide) hp | rfl | exact fun _ => rfl | exact fun _ _ => rfl | exact ⟨rfl, rfl⟩

theorem setSt_frame (b : Byte) : UnchangedBut [.soundTimer] s (s.setSt b) := by
  intro p hp
  cases p <;> first | exact absurd (by decide) hp | rfl | exact fun _ => rfl | exact fun _ _ => rfl | exact ⟨rfl, rfl⟩

theorem setDisp_frame (d : Display) : UnchangedBut [.display] s (s.setDisp d) := by
  intro p hp
  cases p <;> first | exact absurd (by decide) hp | rfl | exact fun _ => rfl | exact fun _ _ => rfl | exact ⟨rfl, rfl⟩

theorem setStack_frame (k : List Word) : UnchangedBut [.stack] s (s.setStack k) := by
  intro p hp
  cases p <;> first | exact absurd (by decide) hp | rfl | exact fun _ => rfl | exact fun _ _ => rfl | exact ⟨rfl, rfl⟩

theorem publishFrame_frame : UnchangedBut [.trace, .frames] s s.publishFrame := by
  intro p hp
  cases p <;> first | exact absurd (by decide) hp | rfl | exact fun _ => rfl | exact fun _ _ => rfl | exact ⟨rfl, rfl⟩

theorem emitBeep_frame (b : Bool) : UnchangedBut [.trace, .beeps] s (s.emitBeep b) := by
  intro p hp
  cases p <;> first | exact absurd (by decide) hp | rfl | exact fun _ => rfl | exact fun _ _ => rfl | exact ⟨rfl, rfl⟩

theorem reply_frame (r : Reply) : UnchangedBut [.replies] s (s.reply r) := by
  intro p hp
  cases p <;> first | exact absurd (by decide) hp | rfl | exact fun _ => rfl | exact fun _ _ => rfl | exact ⟨rfl, rfl⟩

theorem afterChoice_frame : UnchangedBut [.inputs] s s.afterChoice := by
  intro p hp
  cases p <;> first | exact absurd (by decide) hp | rfl | exact fun _ => rfl | exact fun _ _ => rfl | exact ⟨rfl, rfl⟩

theorem tick_frame : UnchangedBut [.delayTimer, .soundTimer, .trace, .beeps] s s.tick := by
  intro p hp
  cases p <;> first | exact absurd (by decide) hp | rfl | exact fun _ => rfl | exact fun _ _ => rfl | exact ⟨rfl, rfl⟩

theorem keyEvent_frame (k : Key) (p : Bool) : UnchangedBut [.keys, .blocked] s (s.keyEvent k p) := by
  intro p hp
  cases p <;> first | exact absurd (by decide) hp | rfl | exact fun _ => rfl | exact fun _ _ => rfl | exact ⟨rfl, rfl⟩

theorem speed_frame (d : Int) : UnchangedBut [.pacingDelay] s (s.speed d) := by
  intro p hp
  cases p <;> first | exact absurd (by decide) hp | rfl | exact fun _ => rfl | exact fun _ _ => rfl | exact ⟨rfl, rfl⟩

theorem takeFrame_frame : UnchangedBut [.frames] s s.takeFrame := by
  intro p hp
  cases p <;> first | exact absurd (by decide) hp | rfl | exact fun _ => rfl | exact fun _ _ => rfl | exact ⟨rfl, rfl⟩

theorem takeBeep_frame : UnchangedBut [.beeps] s s.takeBeep := by
  intro p hp
  cases p <;> first | exact absurd (by decide) hp | rfl | exact fun _ => rfl | exact fun _ _ => rfl | exact ⟨rfl, rfl⟩

theorem consumeRand_frame : UnchangedBut [.random] s s.consumeRand := by
  intro p hp
  cases h : s.env.draws <;>
    cases p <;> first | exact absurd (by decide) hp | simp [Part.same, State.consumeRand, h, State.readV, State.memRead, State.key]

theorem skipIf_frame (c : Bool) : UnchangedBut [.programCounter] s (s.skipIf c) := by
  cases c
  · exact UnchangedBut.refl _ s
  · exact setPc_frame s _

theorem beginWait_frame (k : Key) : UnchangedBut [.blocked, .waitKey] s (s.beginWait k) := by
  intro p hp
  cases h : s.cfg.keyWait <;>
    cases p <;> first | exact absurd (by decide) hp | simp [Part.same, State.beginWait, h, State.readV, State.memRead, State.key]

theorem memWrite_frame (a : Nat) (x : Byte) : UnchangedBut [.memory] s (s.memWrite a x) := by
  intro p hp
  cases h : s.writeIgnored a <;>
    cases p <;> first | exact absurd (by decide) hp | simp [Part.same, State.memWrite, h, State.readV, State.key]

theorem storeBytes_frame (a : Nat) (bs : List Byte) : UnchangedBut [.memory] s (s.storeBytes a bs) := by
  induction bs generalizing s a with
  | nil => exact UnchangedBut.refl _ s
  | cons b bs ih => exact (memWrite_frame s a b).trans (ih (s.memWrite a b) (a + 1))

theorem loadRegs_frame (a : Nat) (ks : List Reg) : UnchangedBut [.registers] s (s.loadRegs a ks) := by
  induction ks generalizing s with
  | nil => exact UnchangedBut.refl _ s
  | cons k ks ih => exact (writeV_frame s k _).trans (ih _)

/-- The fatal halt, whole (60_exceptions.md R331). -/
theorem raiseFatal_halts (cause : Cause) (a w : Word) : FatalHalt cause a w [] s (s.raiseFatal cause a w) := by
  refine ⟨rfl, rfl, rfl, ?_⟩
  intro p hp
  cases p <;> first | exact absurd (by decide) hp | rfl | exact fun _ => rfl | exact fun _ _ => rfl | exact ⟨rfl, rfl⟩

/-- A published frame, whole (44_display.md R270, 60_exceptions.md R353). -/
theorem publishFrame_offers : FrameOffered s s.publishFrame :=
  ⟨rfl, Channel.offer_cases s.cfg.frameCap s.nextLoss s.env.frames s.disp⟩

/-- An emitted beep, whole (60_exceptions.md R352, R353). -/
theorem emitBeep_offers (b : Bool) : BeepOffered b s (s.emitBeep b) :=
  ⟨rfl, Channel.offer_cases s.cfg.beepCap s.nextLoss s.env.beeps b⟩

/-! ### The byte-by-byte store and load loops -/

@[simp] theorem State.memWrite_writeIgnored (a b : Nat) (x : Byte) : (s.memWrite a x).writeIgnored b = s.writeIgnored b := by
  simp [State.writeIgnored]

variable {s}

/-- A byte at a location that a store does not reach is unchanged. -/
theorem State.storeBytes_elsewhere (hm : Memory.wf s.cfg s.mem) (a b : Nat) (bs : List Byte)
    (h : ∀ k, k < bs.length → loc b ≠ loc (a + k)) : (s.storeBytes a bs).memRead b = s.memRead b := by
  induction bs generalizing s a with
  | nil => rfl
  | cons x bs ih =>
    have h0 : loc b ≠ loc a := h 0 (by simp)
    rw [State.storeBytes, ih (State.memWrite_wf hm a x) (a + 1) fun k hk => ?_, State.memRead_memWrite hm]
    · simp [h0]
    · rw [Nat.add_assoc, Nat.add_comm 1 k]
      exact h (k + 1) (by simpa using hk)

/-- A byte whose address loses stores is unchanged (20_memory.md R73). -/
theorem State.storeBytes_ignored (hm : Memory.wf s.cfg s.mem) (a b : Nat) (bs : List Byte) (h : s.writeIgnored b = true) :
    (s.storeBytes a bs).memRead b = s.memRead b := by
  induction bs generalizing s a with
  | nil => rfl
  | cons x bs ih =>
    rw [State.storeBytes, ih (State.memWrite_wf hm a x) (a + 1) (by simpa using h), State.memRead_memWrite hm]
    by_cases h' : loc b = loc a
    · have : s.writeIgnored a = true := by simpa [State.writeIgnored, h'] using h
      simp [this]
    · simp [h']

/-- A stored byte is read back (20_memory.md R73, R75). -/
theorem State.storeBytes_stored (hm : Memory.wf s.cfg s.mem) (a k : Nat) (bs : List Byte) (hl : bs.length ≤ memSize)
    (hk : k < bs.length) (h : s.writeIgnored (a + k) = false) : (s.storeBytes a bs).memRead (a + k) = bs[k] := by
  induction bs generalizing s a k with
  | nil => simp at hk
  | cons x bs ih =>
    have hw := State.memWrite_wf hm a x
    simp only [List.length_cons] at hl hk
    cases k with
    | zero =>
      rw [State.storeBytes, State.storeBytes_elsewhere hw (a + 1) (a + 0) bs fun k hk' => ?_, State.memRead_memWrite hm]
      · simp only [Nat.add_zero] at h
        simp [h]
      · simp only [loc, memSize] at *; omega
    | succ k =>
      have := ih hw (a + 1) k (by omega) (by omega) (by simpa [Nat.add_assoc, Nat.add_comm 1 k] using h)
      simpa [State.storeBytes, Nat.add_assoc, Nat.add_comm 1 k] using this

/-- What the load loop leaves in a register: the byte at `a + r` for a register of the list, the old value otherwise. -/
theorem State.readV_loadRegs (a : Nat) (ks : List Reg) (r : Reg) :
    (s.loadRegs a ks).readV r = if r ∈ ks then s.memRead (a + r.val) else s.readV r := by
  induction ks generalizing s with
  | nil => simp [State.loadRegs]
  | cons k ks ih =>
    rw [State.loadRegs, ih, State.readV_writeV]
    have hmem : ∀ b, (s.writeV k (s.memRead (a + k.val))).memRead b = s.memRead b := fun _ => rfl
    rw [hmem]
    by_cases h1 : r ∈ ks
    · simp [h1]
    · by_cases h2 : r = k <;> simp [h1, h2]

end Sys2Proof.Machine
end

