-- ==== Sys2Proof/Laws/PerInstr.lean ====
section
/-! SUPPORT. Per-instruction statements: the word of an instruction carries the fixed bits of its own row of the opcode map
(30_encoding.md R105). -/

namespace Sys2Proof.Laws.TableRow

/-- The encoded word selects the instruction's row, and the row stands in the opcode map. -/
def Statement (i : Instr) : Prop := (opRow i).selects (encode i) = true ∧ opRow i ∈ opcodeMap

theorem cls : Statement .cls := ⟨by decide, opRow_mem _⟩
theorem ret : Statement .ret := ⟨by decide, opRow_mem _⟩
theorem jp (nnn : BitVec 12) : Statement (.jp nnn) := ⟨selects_op.mpr (fieldOp_encodeAddr _ _), opRow_mem _⟩
theorem call (nnn : BitVec 12) : Statement (.call nnn) := ⟨selects_op.mpr (fieldOp_encodeAddr _ _), opRow_mem _⟩
theorem seImm (x : Reg) (nn : Byte) : Statement (.seImm x nn) := ⟨selects_op.mpr (fieldOp_encodeRegByte _ _ _), opRow_mem _⟩
theorem sneImm (x : Reg) (nn : Byte) : Statement (.sneImm x nn) := ⟨selects_op.mpr (fieldOp_encodeRegByte _ _ _), opRow_mem _⟩
theorem seReg (x : Reg) (y : Reg) : Statement (.seReg x y) := ⟨selects_op_nibble.mpr ⟨fieldOp_encodeRegReg _ _ _ _, fieldN_encodeRegReg _ _ _ _⟩, opRow_mem _⟩
theorem ldImm (x : Reg) (nn : Byte) : Statement (.ldImm x nn) := ⟨selects_op.mpr (fieldOp_encodeRegByte _ _ _), opRow_mem _⟩
theorem addImm (x : Reg) (nn : Byte) : Statement (.addImm x nn) := ⟨selects_op.mpr (fieldOp_encodeRegByte _ _ _), opRow_mem _⟩
theorem ldReg (x : Reg) (y : Reg) : Statement (.ldReg x y) := ⟨selects_op_nibble.mpr ⟨fieldOp_encodeRegReg _ _ _ _, fieldN_encodeRegReg _ _ _ _⟩, opRow_mem _⟩
theorem orReg (x : Reg) (y : Reg) : Statement (.orReg x y) := ⟨selects_op_nibble.mpr ⟨fieldOp_encodeRegReg _ _ _ _, fieldN_encodeRegReg _ _ _ _⟩, opRow_mem _⟩
theorem andReg (x : Reg) (y : Reg) : Statement (.andReg x y) := ⟨selects_op_nibble.mpr ⟨fieldOp_encodeRegReg _ _ _ _, fieldN_encodeRegReg _ _ _ _⟩, opRow_mem _⟩
theorem xorReg (x : Reg) (y : Reg) : Statement (.xorReg x y) := ⟨selects_op_nibble.mpr ⟨fieldOp_encodeRegReg _ _ _ _, fieldN_encodeRegReg _ _ _ _⟩, opRow_mem _⟩
theorem addReg (x : Reg) (y : Reg) : Statement (.addReg x y) := ⟨selects_op_nibble.mpr ⟨fieldOp_encodeRegReg _ _ _ _, fieldN_encodeRegReg _ _ _ _⟩, opRow_mem _⟩
theorem sub (x : Reg) (y : Reg) : Statement (.sub x y) := ⟨selects_op_nibble.mpr ⟨fieldOp_encodeRegReg _ _ _ _, fieldN_encodeRegReg _ _ _ _⟩, opRow_mem _⟩
theorem shr (x : Reg) (y : Reg) : Statement (.shr x y) := ⟨selects_op_nibble.mpr ⟨fieldOp_encodeRegReg _ _ _ _, fieldN_encodeRegReg _ _ _ _⟩, opRow_mem _⟩
theorem subn (x : Reg) (y : Reg) : Statement (.subn x y) := ⟨selects_op_nibble.mpr ⟨fieldOp_encodeRegReg _ _ _ _, fieldN_encodeRegReg _ _ _ _⟩, opRow_mem _⟩
theorem shl (x : Reg) (y : Reg) : Statement (.shl x y) := ⟨selects_op_nibble.mpr ⟨fieldOp_encodeRegReg _ _ _ _, fieldN_encodeRegReg _ _ _ _⟩, opRow_mem _⟩
theorem sneReg (x : Reg) (y : Reg) : Statement (.sneReg x y) := ⟨selects_op_nibble.mpr ⟨fieldOp_encodeRegReg _ _ _ _, fieldN_encodeRegReg _ _ _ _⟩, opRow_mem _⟩
theorem ldI (nnn : BitVec 12) : Statement (.ldI nnn) := ⟨selects_op.mpr (fieldOp_encodeAddr _ _), opRow_mem _⟩
theorem jpV0 (nnn : BitVec 12) : Statement (.jpV0 nnn) := ⟨selects_op.mpr (fieldOp_encodeAddr _ _), opRow_mem _⟩
theorem rnd (x : Reg) (nn : Byte) : Statement (.rnd x nn) := ⟨selects_op.mpr (fieldOp_encodeRegByte _ _ _), opRow_mem _⟩
theorem drw (x : Reg) (y : Reg) (n : Nat) : Statement (.drw x y n) := ⟨selects_op.mpr (fieldOp_encodeRegReg _ _ _ _), opRow_mem _⟩
theorem skp (x : Reg) : Statement (.skp x) := ⟨selects_op_byte.mpr ⟨fieldOp_encodeRegByte _ _ _, fieldNN_encodeRegByte _ _ _⟩, opRow_mem _⟩
theorem sknp (x : Reg) : Statement (.sknp x) := ⟨selects_op_byte.mpr ⟨fieldOp_encodeRegByte _ _ _, fieldNN_encodeRegByte _ _ _⟩, opRow_mem _⟩
theorem ldVxDt (x : Reg) : Statement (.ldVxDt x) := ⟨selects_op_byte.mpr ⟨fieldOp_encodeRegByte _ _ _, fieldNN_encodeRegByte _ _ _⟩, opRow_mem _⟩
theorem ldVxK (x : Reg) : Statement (.ldVxK x) := ⟨selects_op_byte.mpr ⟨fieldOp_encodeRegByte _ _ _, fieldNN_encodeRegByte _ _ _⟩, opRow_mem _⟩
theorem ldDtVx (x : Reg) : Statement (.ldDtVx x) := ⟨selects_op_byte.mpr ⟨fieldOp_encodeRegByte _ _ _, fieldNN_encodeRegByte _ _ _⟩, opRow_mem _⟩
theorem ldStVx (x : Reg) : Statement (.ldStVx x) := ⟨selects_op_byte.mpr ⟨fieldOp_encodeRegByte _ _ _, fieldNN_encodeRegByte _ _ _⟩, opRow_mem _⟩
theorem addIVx (x : Reg) : Statement (.addIVx x) := ⟨selects_op_byte.mpr ⟨fieldOp_encodeRegByte _ _ _, fieldNN_encodeRegByte _ _ _⟩, opRow_mem _⟩
theorem ldFVx (x : Reg) : Statement (.ldFVx x) := ⟨selects_op_byte.mpr ⟨fieldOp_encodeRegByte _ _ _, fieldNN_encodeRegByte _ _ _⟩, opRow_mem _⟩
theorem ldBVx (x : Reg) : Statement (.ldBVx x) := ⟨selects_op_byte.mpr ⟨fieldOp_encodeRegByte _ _ _, fieldNN_encodeRegByte _ _ _⟩, opRow_mem _⟩
theorem ldMemVx (x : Reg) : Statement (.ldMemVx x) := ⟨selects_op_byte.mpr ⟨fieldOp_encodeRegByte _ _ _, fieldNN_encodeRegByte _ _ _⟩, opRow_mem _⟩
theorem ldVxMem (x : Reg) : Statement (.ldVxMem x) := ⟨selects_op_byte.mpr ⟨fieldOp_encodeRegByte _ _ _, fieldNN_encodeRegByte _ _ _⟩, opRow_mem _⟩

end Sys2Proof.Laws.TableRow
end

