-- ==== Sys2Proof/Laws/Schedule.lean ====
section
/-! SUPPORT. What moves next, and that no transition of any agent reads or writes the schedule. -/

namespace Sys2Proof.Machine

variable (s : State) (l : List Transaction) (sch : Scheduler) (k : Nat)

/-! ### The choice -/

theorem nextTransaction_of_cons {tr : Transaction} {rest : List Transaction} (h : s.env.inputs = tr :: rest) :
    s.nextTransaction = tr := by
  simp [State.nextTransaction, h]

theorem nextTransaction_of_engine (h : s.env.inputs = []) (he : s.env.unscheduled = .engine) : s.nextTransaction = .cycle := by
  simp [State.nextTransaction, h, he]

/-- With nothing pending and the ENGINE to move, choosing changes nothing. -/
theorem afterChoice_of_engine (h : s.env.inputs = []) (he : s.env.unscheduled = .engine) : s.afterChoice = s := by
  obtain ⟨⟩ := s
  rename_i env
  obtain ⟨⟩ := env
  simp_all [State.afterChoice, State.nextTurn]

theorem afterChoice_eq_resched : s.afterChoice = s.resched s.env.inputs.tail s.env.unscheduled s.nextTurn := rfl

@[simp] theorem afterChoice_fetchWord (p : Word) : s.afterChoice.fetchWord p = s.fetchWord p := rfl

/-! ### Rescheduling a state -/

@[simp] theorem resched_self : s.resched s.env.inputs s.env.unscheduled s.env.turn = s := rfl
@[simp] theorem resched_resched (l' : List Transaction) (sch' : Scheduler) (k' : Nat) :
    (s.resched l sch k).resched l' sch' k' = s.resched l' sch' k' := rfl
@[simp] theorem resched_readV (x : Reg) : (s.resched l sch k).readV x = s.readV x := rfl
@[simp] theorem resched_memRead (a : Nat) : (s.resched l sch k).memRead a = s.memRead a := rfl

theorem memWrite_resched (a : Nat) (b : Byte) : (s.resched l sch k).memWrite a b = (s.memWrite a b).resched l sch k := by
  have h : (s.resched l sch k).writeIgnored a = s.writeIgnored a := rfl
  unfold State.memWrite
  rw [h]
  split <;> rfl

theorem storeBytes_resched (a : Nat) (bs : List Byte) :
    (s.resched l sch k).storeBytes a bs = (s.storeBytes a bs).resched l sch k := by
  induction bs generalizing s a with
  | nil => rfl
  | cons b bs ih => rw [State.storeBytes, memWrite_resched, ih]; rfl

theorem loadRegs_resched (a : Nat) (ks : List Reg) :
    (s.resched l sch k).loadRegs a ks = (s.loadRegs a ks).resched l sch k := by
  induction ks generalizing s with
  | nil => rfl
  | cons r ks ih => exact ih (s.writeV r (s.memRead (a + r.val)))

theorem skipIf_resched (c : Bool) : (s.resched l sch k).skipIf c = (s.skipIf c).resched l sch k := by
  cases c <;> rfl

theorem shiftResult_resched (x : Reg) (r : Byte) (f : Bool) :
    (s.resched l sch k).shiftResult x r f = (s.shiftResult x r f).resched l sch k := by
  have h : (s.resched l sch k).cfg.vfOrder = s.cfg.vfOrder := rfl
  unfold State.shiftResult
  rw [h]
  split <;> rfl

theorem consumeRand_resched : (s.resched l sch k).consumeRand = s.consumeRand.resched l sch k := by
  have h : (s.resched l sch k).env.draws = s.env.draws := rfl
  unfold State.consumeRand
  rw [h]
  split <;> rfl

theorem beginWait_resched (q : Key) : (s.resched l sch k).beginWait q = (s.beginWait q).resched l sch k := by
  have h : (s.resched l sch k).cfg.keyWait = s.cfg.keyWait := rfl
  unfold State.beginWait
  rw [h]
  split <;> rfl

/-- No instruction reads or writes the schedule. -/
theorem exec_resched {i : Instr} {s t : State} (h : exec i s = .next t) (l : List Transaction) (sch : Scheduler) (k : Nat) :
    exec i (s.resched l sch k) = .next (t.resched l sch k) := by
  cases i
  case ret =>
    have hk : (s.resched l sch k).stack = s.stack := rfl
    simp only [exec, execRet, hk] at h ⊢
    split at h <;> cases h <;> simp_all <;> rfl
  case call =>
    have hk : (s.resched l sch k).stackFull = s.stackFull := rfl
    simp only [exec, execCall, hk] at h ⊢
    split at h <;> cases h <;> simp_all <;> rfl
  case ldVxK =>
    have hk : (s.resched l sch k).leastKey = s.leastKey := rfl
    simp only [exec, execLdVxK, hk] at h ⊢
    split at h <;> cases h <;> simp_all
    · exact beginWait_resched (s.writeV _ _) l sch k _
    · rfl
  case seImm => cases h; exact congrArg _ (skipIf_resched s l sch k _)
  case sneImm => cases h; exact congrArg _ (skipIf_resched s l sch k _)
  case seReg => cases h; exact congrArg _ (skipIf_resched s l sch k _)
  case sneReg => cases h; exact congrArg _ (skipIf_resched s l sch k _)
  case skp => cases h; exact congrArg _ (skipIf_resched s l sch k _)
  case sknp => cases h; exact congrArg _ (skipIf_resched s l sch k _)
  case shr => cases h; exact congrArg _ (shiftResult_resched s l sch k _ _ _)
  case shl => cases h; exact congrArg _ (shiftResult_resched s l sch k _ _ _)
  case rnd x nn =>
    cases h
    exact congrArg (fun u : State => (Host.Outcome.next (u.writeV x (s.rand &&& nn)) : Host.Outcome State Fault Refusal)) (consumeRand_resched s l sch k)
  case ldBVx => cases h; exact congrArg _ (storeBytes_resched s l sch k _ _)
  case ldMemVx x =>
    cases h
    exact congrArg (fun u : State => (Host.Outcome.next (u.setI (s.iAfter x)) : Host.Outcome State Fault Refusal)) (storeBytes_resched s l sch k _ _)
  case ldVxMem x =>
    cases h
    exact congrArg (fun u : State => (Host.Outcome.next (u.setI (s.iAfter x)) : Host.Outcome State Fault Refusal)) (loadRegs_resched s l sch k _ _)
  all_goals cases h; rfl

/-- No transition of any agent reads or writes the schedule. -/
theorem perform_resched {tr : Transaction} {s t : State} (h : perform tr s = .next t) (l : List Transaction) (sch : Scheduler)
    (k : Nat) : perform tr (s.resched l sch k) = .next (t.resched l sch k) := by
  cases tr
  case cycle =>
    have hi : (s.resched l sch k).idle = s.idle := rfl
    have hw : (s.resched l sch k).fetchWord s.pc = s.fetchWord s.pc := rfl
    have ha : (s.resched l sch k).advance = s.advance.resched l sch k := rfl
    have hp : (s.resched l sch k).pc = s.pc := rfl
    simp only [perform, cycle, hi, ha, hp, hw, executeWord] at h ⊢
    split at h
    · rename_i hn
      cases h
      rw [if_pos hn]
    · rename_i hn
      rw [if_neg hn]
      split at h
      · exact exec_resched h l sch k
      · cases h; rfl
  case load rom =>
    simp only [perform, State.load] at h ⊢
    split at h <;> rename_i hn <;> cases h
    · rw [if_pos hn]; rfl
    · rw [if_neg hn]; rfl
  all_goals cases h; rfl

/-- A transition leaves the schedule as it was. -/
theorem perform_schedule {tr : Transaction} {s t : State} (h : perform tr s = .next t) :
    t.env.inputs = s.env.inputs ∧ t.env.unscheduled = s.env.unscheduled ∧ t.env.turn = s.env.turn := by
  have h' : perform tr s = .next (t.resched s.env.inputs s.env.unscheduled s.env.turn) :=
    perform_resched h s.env.inputs s.env.unscheduled s.env.turn
  rw [h] at h'
  injection h' with e
  rw [e]
  exact ⟨rfl, rfl, rfl⟩

end Sys2Proof.Machine
end

