-- ==== Sys2Proof/Tests/Slice0.lean ====
section
/-! SUPPORT. Tests. Expected results come from the encodings of 30_encoding.md and the vectors of 95_test_vectors.md (S<n> of its
part L1, L2.<n> of its part L2), never from the model. The witnesses at the end show states that meet the hypotheses of the
obligations. -/

namespace Sys2Proof.Tests

open Sys2Proof.Machine

/-! ### Well-formedness -/

theorem test_wellFormed_refuses_count_16 : (Instr.drw 0 0 16).wellFormed = false := by decide
theorem test_wellFormed_admits_count_15 : (Instr.drw 0 0 15).wellFormed = true := by decide
theorem test_wellFormed_refuses_stack_of_depth_0 :
    ({ defaultConfig with stackDepth := some 0 } : Config).wellFormed = false := by decide
theorem test_wellFormed_admits_default_parameters : defaultConfig.wellFormed = true := by decide

/-! ### Decoding: words written out bit by bit from the rows of R105 -/

theorem test_decode_display :
    decodeWord 0b0000000011100000#16 = some .cls ∧ decodeWord 0b1101000100101111#16 = some (.drw 1 2 15) := by decide

theorem test_decode_control :
    decodeWord 0b0000000011101110#16 = some .ret ∧ decodeWord 0b0001101010111100#16 = some (.jp 0xABC) ∧
    decodeWord 0b0010010000000001#16 = some (.call 0x401) ∧ decodeWord 0b0011010101000010#16 = some (.seImm 5 0x42) ∧
    decodeWord 0b0100111110000001#16 = some (.sneImm 15 0x81) ∧ decodeWord 0b0101000100100000#16 = some (.seReg 1 2) ∧
    decodeWord 0b1001111000010000#16 = some (.sneReg 14 1) ∧ decodeWord 0b1011001100000100#16 = some (.jpV0 0x304) := by
  decide

theorem test_decode_arithmetic :
    decodeWord 0b0110101010011100#16 = some (.ldImm 10 0x9C) ∧ decodeWord 0b0111001111111110#16 = some (.addImm 3 0xFE) ∧
    decodeWord 0b1000000100100000#16 = some (.ldReg 1 2) ∧ decodeWord 0b1000000100100001#16 = some (.orReg 1 2) ∧
    decodeWord 0b1000000100100010#16 = some (.andReg 1 2) ∧ decodeWord 0b1000000100100011#16 = some (.xorReg 1 2) ∧
    decodeWord 0b1000000100100100#16 = some (.addReg 1 2) ∧ decodeWord 0b1000000100100101#16 = some (.sub 1 2) ∧
    decodeWord 0b1000111100010110#16 = some (.shr 15 1) ∧ decodeWord 0b1000000100100111#16 = some (.subn 1 2) ∧
    decodeWord 0b1000111100011110#16 = some (.shl 15 1) ∧ decodeWord 0b1100001100001111#16 = some (.rnd 3 0x0F) := by
  decide

theorem test_decode_index_memory :
    decodeWord 0b1010001100000001#16 = some (.ldI 0x301) ∧ decodeWord 0b1111000100011110#16 = some (.addIVx 1) ∧
    decodeWord 0b1111001000101001#16 = some (.ldFVx 2) ∧ decodeWord 0b1111101000110011#16 = some (.ldBVx 10) ∧
    decodeWord 0b1111001101010101#16 = some (.ldMemVx 3) ∧ decodeWord 0b1111010001100101#16 = some (.ldVxMem 4) := by decide

theorem test_decode_keys_timers :
    decodeWord 0b1110010010011110#16 = some (.skp 4) ∧ decodeWord 0b1110010010100001#16 = some (.sknp 4) ∧
    decodeWord 0b1111001100000111#16 = some (.ldVxDt 3) ∧ decodeWord 0b1111010100001010#16 = some (.ldVxK 5) ∧
    decodeWord 0b1111001100010101#16 = some (.ldDtVx 3) ∧ decodeWord 0b1111001100011000#16 = some (.ldStVx 3) := by decide

/-- L2.1: the words that are no instruction. -/
theorem test_decode_unrecognized_low : [0x0000#16, 0x0123#16, 0x00E1#16, 0x00FF#16, 0x5121#16, 0x9121#16].all
    (fun w => (decodeWord w).isNone) = true := by decide
theorem test_decode_unrecognized_arithmetic : [0x8008#16, 0x8009#16, 0x800A#16, 0x800B#16, 0x800C#16, 0x800D#16, 0x800F#16].all
    (fun w => (decodeWord w).isNone) = true := by decide
theorem test_decode_unrecognized_high : [0xE09F#16, 0xE0A2#16, 0xE000#16, 0xF000#16, 0xF01F#16, 0xF030#16, 0xFFFF#16].all
    (fun w => (decodeWord w).isNone) = true := by decide

/-- The high byte of a word comes first (R100, R74), and a lone byte is no instruction. -/
theorem test_decode_bytes :
    decode [0x6A, 0x9C, 0x77] = .instr (.ldImm 10 0x9C) [0x77] ∧ decode [0x6A] = .rejected .truncated ∧
    decode [0x51, 0x21] = .rejected (.unrecognized 0x5121#16) ∧ decodeTableWord 16 0xF265 = some (.ldVxMem 2) := by decide

/-! ### One step -/

/-- The reset state with the registers of the list set. -/
def withRegs (rs : List (Reg × Byte)) : State := rs.foldl (fun s r => s.writeV r.1 r.2) State.reset

/-- `s` with I at `i` and the bytes of the list from `i` on. -/
def withMem (i : Word) (bs : List Byte) (s : State) : State := (s.setI i).storeBytes i.toNat bs

/-- `s` with the parameters changed. -/
def withParams (f : Config → Config) (s : State) : State := { s with cfg := f s.cfg }

/-- `s` with the keys of the list pressed. -/
def withKeys (ks : List Key) (s : State) : State := ks.foldl (fun s k => s.keyEvent k true) s

/-- `s` with PC at `a`. -/
def atPc (a : Word) (s : State) : State := s.setPc a

/-- The word `w` at PC, run from `s`, ends in a state of which `p` holds. -/
def runs (w : Nat) (s : State) (p : State → Bool) : Bool :=
  match step (s.withFetchWord 16 w) with
  | .next t => p t
  | .fault _ => false
  | .refused _ => false

/-- The transaction `tr`, performed from `s`, ends in a state of which `p` holds. -/
def performs (tr : Transaction) (s : State) (p : State → Bool) : Bool :=
  match step { s with env := { s.env with inputs := [tr] } } with
  | .next t => p t
  | .fault _ => false
  | .refused _ => false

/-- The pixels of the list, by row and column, are set. -/
def lit (t : State) (ps : List (Fin 32 × Fin 64)) : Bool := ps.all fun p => t.disp.pixel p.1 p.2

/-- The pixels of the list, by row and column, are clear. -/
def dark (t : State) (ps : List (Fin 32 × Fin 64)) : Bool := ps.all fun p => !t.disp.pixel p.1 p.2

/-- The bytes from `a` on are those of the list. -/
def holds (t : State) (a : Nat) (bs : List Byte) : Bool := ((List.range bs.length).map fun k => t.memRead (a + k)) == bs

/-- The registers of the list hold the values given. -/
def regsAre (t : State) (rs : List (Reg × Byte)) : Bool := rs.all fun r => t.readV r.1 == r.2

/-! #### Fetch and decode (L2.1) -/

theorem test_unrecognized_halts : runs 0x0123 State.reset (fun t =>
    !t.running && t.fault == ⟨.unrecognizedOpcode, 0x0200, 0x0123⟩ && t.pc == 0x0202 &&
    t.env.trace == [.fatal .unrecognizedOpcode 0x0200 0x0123]) = true := by decide

theorem test_fetch_wraps_at_the_end_of_memory : runs 0x6001 (atPc 0xFFFE State.reset) (fun t =>
    regsAre t [(0, 0x01)] && t.pc == 0x0000) = true := by decide

theorem test_fetch_at_odd_address : runs 0x607F (atPc 0x0201 State.reset) (fun t =>
    regsAre t [(0, 0x7F)] && t.pc == 0x0203) = true := by decide

/-- L2.9: a CYCLE after INIT does nothing. -/
theorem test_idle_until_loaded : performs .cycle State.reset (fun t => !t.running && t.pc == 0x0200 && t.env.trace == []) = true := by
  decide

/-! #### Control transfer (L2.2) -/

theorem test_ret_pops : runs 0x00EE (atPc 0x0400 { State.reset with stack := [0x0310, 0x0206] }) (fun t =>
    t.pc == 0x0310 && t.stack == [0x0206]) = true := by decide
theorem test_ret_on_empty_stack : runs 0x00EE (atPc 0x0300 State.reset) (fun t =>
    !t.running && t.fault == ⟨.emptyStackReturn, 0x0300, 0x00EE⟩ && t.pc == 0x0302 && t.stack == []) = true := by decide
theorem test_jp : runs 0x1ABC State.reset (fun t => t.pc == 0x0ABC) = true := by decide
theorem test_call : runs 0x2000 (atPc 0xFFFE State.reset) (fun t => t.stack == [0x0000] && t.pc == 0x0000) = true := by decide
theorem test_call_on_full_stack :
    runs 0x2600 (atPc 0x0500 (withParams (fun c => { c with stackDepth := some 2 }) { State.reset with stack := [0x0402, 0x0202] }))
      (fun t => t.fault == ⟨.stackOverflow, 0x0500, 0x2600⟩ && t.stack == [0x0402, 0x0202] && t.pc == 0x0502 && !t.running) = true := by
  decide
theorem test_seImm_skips : runs 0x3542 (withRegs [(5, 0x42)]) (fun t => t.pc == 0x0204) = true := by decide
theorem test_seImm_goes_on : runs 0x3542 (withRegs [(5, 0x41)]) (fun t => t.pc == 0x0202) = true := by decide
theorem test_sneImm_skips : runs 0x4542 (withRegs [(5, 0x41)]) (fun t => t.pc == 0x0204) = true := by decide
theorem test_sneImm_goes_on : runs 0x4542 (withRegs [(5, 0x42)]) (fun t => t.pc == 0x0202) = true := by decide
theorem test_seReg_skips : runs 0x5120 (withRegs [(1, 7), (2, 7)]) (fun t => t.pc == 0x0204) = true := by decide
theorem test_seReg_goes_on : runs 0x5120 (withRegs [(1, 7), (2, 8)]) (fun t => t.pc == 0x0202) = true := by decide
theorem test_sneReg_skips : runs 0x9120 (withRegs [(1, 7), (2, 8)]) (fun t => t.pc == 0x0204) = true := by decide
theorem test_sneReg_goes_on : runs 0x9330 (withRegs [(3, 9)]) (fun t => t.pc == 0x0202) = true := by decide
theorem test_jpV0_uses_v0 : runs 0xB100 (withRegs [(0, 4), (1, 0x99)]) (fun t => t.pc == 0x0104) = true := by decide
theorem test_jpV0_keeps_16_bits : runs 0xBFFF (withRegs [(0, 0xFF)]) (fun t => t.pc == 0x10FE) = true := by decide

/-! #### Registers and arithmetic (S1 to S5, L2.3) -/

theorem test_ldImm : runs 0x6A9C State.reset (fun t => regsAre t [(10, 0x9C)] && t.pc == 0x0202) = true := by decide
theorem test_addImm_wraps : runs 0x7002 (withRegs [(0, 0xFF), (15, 0x55)]) (fun t =>
    regsAre t [(0, 0x01), (15, 0x55)]) = true := by decide
theorem test_ldReg : runs 0x8120 (withRegs [(2, 0x11)]) (fun t => regsAre t [(1, 0x11), (2, 0x11)]) = true := by decide
theorem test_orReg : runs 0x8121 (withRegs [(1, 0x0C), (2, 0x0A)]) (fun t => regsAre t [(1, 0x0E), (15, 0)]) = true := by decide
theorem test_andReg : runs 0x8122 (withRegs [(1, 0x0C), (2, 0x0A)]) (fun t => regsAre t [(1, 0x08), (15, 0)]) = true := by decide
theorem test_xorReg : runs 0x8113 (withRegs [(1, 0x5A), (15, 0x33)]) (fun t => regsAre t [(1, 0), (15, 0x33)]) = true := by decide
theorem test_addReg_carries : runs 0x8014 (withRegs [(0, 0xF0), (1, 0x20)]) (fun t => regsAre t [(0, 0x10), (15, 1)]) = true := by decide
theorem test_addReg_into_vf : runs 0x8F14 (withRegs [(15, 0xF0), (1, 0x20)]) (fun t => regsAre t [(15, 1)]) = true := by decide
theorem test_sub_borrows : runs 0x8015 (withRegs [(0, 0x05), (1, 0x10)]) (fun t => regsAre t [(0, 0xF5), (15, 0)]) = true := by decide
theorem test_sub_equal : runs 0x8115 (withRegs [(1, 0x33)]) (fun t => regsAre t [(1, 0), (15, 1)]) = true := by decide
theorem test_subn : runs 0x8127 (withRegs [(1, 0x05), (2, 0x10)]) (fun t => regsAre t [(1, 0x0B), (15, 1)]) = true := by decide
theorem test_subn_borrows : runs 0x8127 (withRegs [(1, 0x10), (2, 0x05)]) (fun t => regsAre t [(1, 0xF5), (15, 0)]) = true := by decide
theorem test_shr_shifts_vy : runs 0x8126 (withRegs [(2, 0x05)]) (fun t => regsAre t [(1, 0x02), (2, 0x05), (15, 1)]) = true := by decide
theorem test_shr_into_vf_flag_last : runs 0x8F16 (withParams (fun c => { c with vfOrder := .flagLast }) (withRegs [(1, 0x05)]))
    (fun t => regsAre t [(15, 0x01)]) = true := by decide
theorem test_shl_shifts_vx : runs 0x812E (withParams (fun c => { c with shiftSource := .vx }) (withRegs [(1, 0x40), (2, 0x81)]))
    (fun t => regsAre t [(1, 0x80), (15, 0)]) = true := by decide
theorem test_shl_into_vf_text_order : runs 0x8F1E (withRegs [(1, 0xC0)]) (fun t => regsAre t [(15, 0x80)]) = true := by decide
theorem test_rnd_masks : runs 0xC30F { State.reset with env := { Env.empty with draws := [0xA7] } } (fun t =>
    regsAre t [(3, 0x07)] && t.env.draws == []) = true := by decide
/-- With mask 0 the result is 0 whatever the random byte. -/
theorem test_rnd_any : runs 0xC300 State.reset (fun t => t.env.drawn == 1) = true := by decide

/-! #### Index register and memory (L2.4, S9) -/

theorem test_ldI : runs 0xA300 { State.reset with i := 0xFFFF } (fun t => t.i == 0x0300) = true := by decide
theorem test_addIVx_wraps_at_16_bits : runs 0xF11E { withRegs [(1, 0x02)] with i := 0xFFFF } (fun t => t.i == 0x0001) = true := by decide
theorem test_addIVx_is_not_masked : runs 0xF11E { withRegs [(1, 0x01)] with i := 0x0FFF } (fun t =>
    t.i == 0x1000 && regsAre t [(15, 0)]) = true := by decide
theorem test_ldFVx : runs 0xF229 (withRegs [(2, 0x05)]) (fun t =>
    t.i == 0x0069 && holds t 0x069 [0xF0, 0x80, 0xF0, 0x10, 0xF0]) = true := by decide
theorem test_ldFVx_all_8_bits : runs 0xF229 (withRegs [(2, 0xFF)]) (fun t => t.i == 0x054B) = true := by decide
theorem test_ldBVx : runs 0xFA33 { withRegs [(10, 0x9C)] with i := 0x0300 } (fun t =>
    holds t 0x300 [1, 5, 6] && t.i == 0x0300) = true := by decide
theorem test_ldBVx_into_font : runs 0xFA33 { withRegs [(10, 0x7B)] with i := 0x009F } (fun t =>
    holds t 0x09F [0x80, 2, 3]) = true := by decide
theorem test_ldMemVx_wraps : runs 0xF355 { withRegs [(0, 1), (1, 2), (2, 3), (3, 4)] with i := 0xFFFE } (fun t =>
    holds t 0xFFE [1, 2, 3, 4] && holds t 0 [3, 4] && t.i == 0x0002) = true := by decide
theorem test_ldMemVx_past_font : runs 0xF355 { withRegs [(0, 1), (1, 2), (2, 3), (3, 4)] with i := 0x009E } (fun t =>
    holds t 0x09E [0x80, 0x80, 3, 4] && t.i == 0x00A2) = true := by decide
theorem test_ldVxMem : runs 0xF265 (withMem 0x0300 [1, 5, 6] (withRegs [(3, 0x77)])) (fun t =>
    regsAre t [(0, 1), (1, 5), (2, 6), (3, 0x77)] && t.i == 0x0303) = true := by decide
theorem test_ldVxMem_font : runs 0xF465 { State.reset with i := 0x0050 } (fun t =>
    regsAre t [(0, 0xF0), (1, 0x90), (2, 0x90), (3, 0x90), (4, 0xF0), (5, 0)] && t.i == 0x0055) = true := by decide

/-! #### Display (L2.5) -/

theorem test_cls : runs 0x00E0 { State.reset with disp := Display.clear.flip 3 4 } (fun t =>
    dark t [(3, 4)] && t.env.trace.length == 1 && regsAre t [(15, 0)]) = true := by decide
theorem test_drw_wraps_both_ways : runs 0xD012 (withMem 0x0300 [0xC0, 0x81] (withRegs [(0, 63), (1, 31)])) (fun t =>
    lit t [(31, 63), (31, 0), (0, 63), (0, 6)] && dark t [(31, 1), (0, 0), (0, 5), (1, 0)] && regsAre t [(15, 0)]) = true := by decide
theorem test_drw_collides : runs 0xD011
    (withMem 0x0300 [0x10] { withRegs [(0, 0), (1, 2)] with disp := Display.clear.flip 2 3 })
    (fun t => dark t [(2, 3)] && regsAre t [(15, 1)] && t.env.trace.length == 1) = true := by decide

/-! #### Keys and timers (L2.6, L2.7) -/

theorem test_skp_low_nibble : runs 0xE49E (withKeys [0xA] (withRegs [(4, 0x1A)])) (fun t => t.pc == 0x0204) = true := by decide
theorem test_skp_goes_on : runs 0xE49E (withRegs [(4, 0x0A)]) (fun t => t.pc == 0x0202) = true := by decide
theorem test_sknp_skips : runs 0xE4A1 (withRegs [(4, 0x0A)]) (fun t => t.pc == 0x0204) = true := by decide
theorem test_sknp_goes_on : runs 0xE4A1 (withKeys [0xA] (withRegs [(4, 0x0A)])) (fun t => t.pc == 0x0202) = true := by decide
theorem test_ldVxDt : runs 0xF307 { State.reset with dt := 0x3C } (fun t => regsAre t [(3, 0x3C)] && t.dt == 0x3C) = true := by decide
theorem test_ldVxK_least_key : runs 0xF50A (atPc 0x0300 (withKeys [9, 3] State.reset)) (fun t =>
    regsAre t [(5, 3)] && t.blocked && t.waitKey == 3 && t.pc == 0x0302) = true := by decide
theorem test_ldVxK_retries : runs 0xF50A (atPc 0x0300 (withRegs [(5, 0x44)])) (fun t =>
    regsAre t [(5, 0x44)] && !t.blocked && t.pc == 0x0300) = true := by decide
theorem test_ldDtVx : runs 0xF315 (withRegs [(3, 0x3C)]) (fun t => t.dt == 0x3C && t.st == 0) = true := by decide
theorem test_ldStVx : runs 0xF318 (withRegs [(3, 0x02)]) (fun t => t.st == 0x02 && t.dt == 0 && t.env.trace == []) = true := by decide

/-! #### The TIMER and the HOST (L2.7 to L2.9) -/

theorem test_tick : performs .tick { State.reset with dt := 5, st := 1 } (fun t =>
    t.dt == 4 && t.st == 0 && t.env.trace == [.beep true]) = true := by decide
theorem test_tick_at_zero : performs .tick State.reset (fun t =>
    t.dt == 0 && t.st == 0 && t.env.trace == [.beep false]) = true := by decide
theorem test_key_ends_wait : performs (.key 7 false)
    { withKeys [7] State.reset with running := true, blocked := true, waitKey := 7 } (fun t => !t.blocked && !t.key 7) = true := by decide
theorem test_key_other_release : performs (.key 3 false)
    { withKeys [3, 7] State.reset with running := true, blocked := true, waitKey := 7 } (fun t =>
      t.blocked && !t.key 3 && t.key 7) = true := by decide
theorem test_load : performs (.load [0x12, 0x00])
    { withKeys [4] (withRegs [(0, 5)]) with fault := ⟨.emptyStackReturn, 0x0300, 0x00EE⟩, delay := 9 } (fun t =>
      holds t 0x200 [0x12, 0x00, 0x00] && t.running && t.fault == .clear && !t.key 4 && regsAre t [(0, 0)] && t.delay == 9 &&
      t.env.replies == [.loadOk]) = true := by decide
theorem test_load_restores_font : performs (.load [])
    (withParams (fun c => { c with fontWritable := true }) { State.reset with mem := [(0x050, 0)] }) (fun t =>
      holds t 0x050 [0xF0, 0x90] && t.running) = true := by decide
/-- R358: the delta is signed, the delay is not, and the sum is clamped, not rejected. -/
theorem test_speed_clamps_to_floor : performs (.speed (-5))
    (withParams (fun c => { c with delayMin := 3, delayMax := 20 }) { State.reset with delay := 4 }) (fun t => t.delay == 3) = true := by decide
theorem test_speed_clamps_to_ceiling : performs (.speed 30)
    (withParams (fun c => { c with delayMin := 3, delayMax := 20 }) { State.reset with delay := 4 }) (fun t => t.delay == 20) = true := by decide
theorem test_init : performs .init { withRegs [(2, 7)] with running := true, dt := 3, stack := [0x0206], mem := [(0x300, 9)] } (fun t =>
    regsAre t [(2, 0)] && !t.running && t.dt == 0 && t.stack == [] && holds t 0x300 [0] && t.pc == 0x0200) = true := by decide

/-! ### Witnesses: states and operands that meet the hypotheses of the obligations -/

/-- A running machine about to execute `w` at 0x200. -/
def ready (w : Nat) : State := State.reset.withFetchWord 16 w

/-- The reset state with the ENGINE to move when nothing is pending. -/
def engineNext : State := State.reset.resched [] .engine 0

/-- The reset state with one transaction pending. -/
def pending (tr : Transaction) : State := { State.reset with env := { Env.empty with inputs := [tr] } }

theorem witness_DecodeOfEncodeIsTheInstruction : (Instr.drw 15 0 15).wellFormed = true ∧ (Instr.drw 0 15 0).wellFormed = true := by
  decide

theorem witness_EncodeOfDecodeIsTheWord : decodeWord 0xD12F#16 = some (.drw 1 2 15) := by decide

theorem witness_StepRunsTheDecodedInstruction :
    (ready 0xF265).nextTransaction = .cycle ∧ (ready 0xF265).running = true ∧ (ready 0xF265).blocked = false ∧
    (Instr.ldVxMem 2).wellFormed = true ∧
    decode [(ready 0xF265).memRead (ready 0xF265).pc.toNat, (ready 0xF265).memRead ((ready 0xF265).pc.toNat + 1)] =
      .instr (.ldVxMem 2) [] := by decide

theorem witness_IdleCycleDoesNothing_halted :
    engineNext.nextTransaction = .cycle ∧ engineNext.running = false ∧ engineNext.env.inputs = [] ∧
    engineNext.env.unscheduled = .engine := ⟨rfl, rfl, rfl, rfl⟩
theorem witness_IdleCycleDoesNothing_blocked :
    { pending .cycle with running := true, blocked := true }.nextTransaction = .cycle ∧
    { pending .cycle with running := true, blocked := true }.blocked = true := ⟨rfl, rfl⟩

theorem witness_UnrecognizedWordHalts :
    (ready 0x0123).nextTransaction = .cycle ∧ (ready 0x0123).running = true ∧ (ready 0x0123).blocked = false ∧
    decodeWord ((ready 0x0123).fetchWord (ready 0x0123).pc) = none := by decide

/-- The font range at its ends, and at an address that only wraps into it. -/
theorem witness_WrittenByteIsReadBack_font :
    StoreLost State.reset.cfg 0x050 ∧ StoreLost State.reset.cfg 0x09F ∧ StoreLost State.reset.cfg 0x1050 := by
  simp only [StoreLost]; exact ⟨⟨rfl, by decide⟩, ⟨rfl, by decide⟩, ⟨rfl, by decide⟩⟩
theorem witness_WrittenByteIsReadBack_elsewhere :
    Memory.wf State.reset.cfg State.reset.mem ∧ ¬StoreLost State.reset.cfg 0x04F ∧ ¬StoreLost State.reset.cfg 0x0A0 ∧
    ¬StoreLost { State.reset.cfg with fontWritable := true } 0x050 := by
  refine ⟨reset_memory_wf, ?_, ?_, ?_⟩ <;> simp [StoreLost]

/-- Stores that reach both bytes of the next word, PC only modulo 4096, PC + 1 alone, neither, and a byte that is lost. -/
theorem witness_StoredCodeIsFetched :
    Memory.wf State.reset.cfg State.reset.mem ∧
    0x200 % 4096 = { State.reset with i := 0x0200 }.ea 0 % 4096 ∧ 0x201 % 4096 = { State.reset with i := 0x0200 }.ea 1 % 4096 ∧
    0x200 % 4096 = { State.reset with i := 0x1200 }.ea 0 % 4096 ∧ 0x201 % 4096 = { State.reset with i := 0x0201 }.ea 0 % 4096 ∧
    (∀ k, k < 3 → 0x200 % 4096 ≠ { State.reset with i := 0x0300 }.ea k % 4096) ∧
    0x09F % 4096 = { State.reset with i := 0x009F }.ea 0 % 4096 ∧ StoreLost State.reset.cfg 0x09F ∧ ¬StoreLost State.reset.cfg 0x200 := by
  refine ⟨reset_memory_wf, rfl, rfl, rfl, rfl, by decide, rfl, ⟨rfl, by decide⟩, ?_⟩
  simp [StoreLost]

theorem witness_CallPushesOrHalts_pushes :
    (∀ d, State.reset.cfg.stackDepth = some d → State.reset.stack.length < d) ∧
    ∀ d, (withParams (fun c => { c with stackDepth := some 2 }) { State.reset with stack := [0x0202] }).cfg.stackDepth = some d →
      (withParams (fun c => { c with stackDepth := some 2 }) { State.reset with stack := [0x0202] }).stack.length < d := by
  refine ⟨fun d h => ?_, fun d h => ?_⟩
  · exact nomatch h
  · cases h; decide

theorem witness_CallPushesOrHalts_halts :
    (withParams (fun c => { c with stackDepth := some 1 }) { State.reset with stack := [0x0202] }).cfg.stackDepth = some 1 ∧
    1 ≤ (withParams (fun c => { c with stackDepth := some 1 }) { State.reset with stack := [0x0202] }).stack.length :=
  ⟨rfl, by decide⟩

theorem witness_ReturnPopsTheStack :
    { State.reset with stack := [0x0310, 0x0206] }.stack = 0x0310 :: [0x0206] ∧ State.reset.stack = [] := ⟨rfl, rfl⟩

theorem witness_ReturnUndoesCall :
    (∀ d, State.reset.cfg.stackDepth = some d → State.reset.stack.length < d) ∧
    ∃ t, exec (.call 0x400) State.reset = .next t ∧ { State.reset with stack := [0x0200] }.stack = t.stack :=
  ⟨fun _ h => (nomatch h), _, rfl, rfl⟩

theorem witness_KeySkips : (0xA : Key).val = ((withRegs [(4, 0x1A)]).readV 4).toNat % 16 := by decide

theorem witness_ShiftsFollowTheParameters_vy :
    (withRegs [(1, 0x05)]).cfg.shiftSource = .vy ∧ (withRegs [(1, 0x05)]).cfg.vfOrder = .textOrder ∧
    0x05 = ((withRegs [(1, 0x05)]).readV 1).toNat := ⟨rfl, rfl, by decide⟩
theorem witness_ShiftsFollowTheParameters_vx :
    (withParams (fun c => { c with shiftSource := .vx, vfOrder := .flagLast }) (withRegs [(15, 0xC0)])).cfg.shiftSource = .vx ∧
    (withParams (fun c => { c with shiftSource := .vx, vfOrder := .flagLast }) (withRegs [(15, 0xC0)])).cfg.vfOrder = .flagLast ∧
    0xC0 = ((withParams (fun c => { c with shiftSource := .vx, vfOrder := .flagLast }) (withRegs [(15, 0xC0)])).readV 15).toNat :=
  ⟨rfl, rfl, by decide⟩

theorem witness_RandomByteUnderMask :
    { State.reset with env := { Env.empty with draws := [0xA7] } }.env.draws = 0xA7 :: [] ∧ State.reset.env.draws = [] := ⟨rfl, rfl⟩

/-- A store of three bytes whose first is lost, and one that wraps past the end of memory. -/
theorem witness_DecimalDigitsAreStored :
    Memory.wf State.reset.cfg State.reset.mem ∧ StoreLost State.reset.cfg ({ State.reset with i := 0x009F }.ea 0) ∧
    ¬StoreLost State.reset.cfg ({ State.reset with i := 0x009F }.ea 1) ∧ ¬StoreLost State.reset.cfg ({ State.reset with i := 0x0FFF }.ea 2) := by
  refine ⟨reset_memory_wf, ⟨rfl, by decide⟩, ?_, ?_⟩ <;>
    simp [StoreLost, State.ea]

theorem witness_RegistersAreStored : Memory.wf State.reset.cfg State.reset.mem ∧
    StoreLost State.reset.cfg ({ State.reset with i := 0x0041 }.ea 15) ∧ ¬StoreLost State.reset.cfg ({ State.reset with i := 0x0041 }.ea 14) := by
  refine ⟨reset_memory_wf, ⟨rfl, by decide⟩, ?_⟩
  simp [StoreLost, State.ea]

theorem witness_StoreLoadRoundTrip :
    Memory.wf State.reset.cfg State.reset.mem ∧
    (∀ k : Reg, k ≤ 15 → ¬StoreLost State.reset.cfg ({ State.reset with i := 0x0300 }.i.toNat + k.val)) ∧
    ∃ t, exec (.ldMemVx 15) { State.reset with i := 0x0300 } = .next t ∧
      (t.setI 0x0300).i = { State.reset with i := 0x0300 }.i ∧ ∀ a, (t.setI 0x0300).memRead a = t.memRead a := by
  refine ⟨reset_memory_wf, fun k _ => ?_, _, rfl, rfl, setI_frame _ _ .memory (by decide)⟩
  simp only [StoreLost]
  rintro ⟨-, -, h⟩
  revert k
  decide

theorem witness_DrawXorsTheSprite :
    SpriteCovers { withRegs [(0, 63), (1, 31)] with i := 0x0050 } 0 1 5 31 0 ∧
    ¬SpriteCovers { withRegs [(0, 63), (1, 31)] with i := 0x0050 } 0 1 0 31 0 := by
  refine ⟨⟨0, 1, by decide, by decide, by decide, by decide, by decide⟩, ?_⟩
  rintro ⟨k, j, hk, -⟩
  exact absurd hk (Nat.not_lt_zero k)

theorem witness_DrawTwiceRestores : ∃ t, exec (.drw 0 1 5) { State.reset with i := 0x0050 } = .next t ∧
    (∀ a, { State.reset with i := 0x0050, disp := t.disp }.memRead a = { State.reset with i := 0x0050 }.memRead a) ∧
    (∀ r c, { State.reset with i := 0x0050, disp := t.disp }.disp.pixel r c = t.disp.pixel r c) := ⟨_, rfl, fun _ => rfl, fun _ _ => rfl⟩

theorem witness_OnlyDrawingOffersFrames :
    (∃ t, exec .cls State.reset = .next t) ∧ (∃ t, exec (.ldStVx 3) State.reset = .next t) ∧
    Transaction.tick ≠ .cycle ∧ ∃ t, perform .tick State.reset = .next t := ⟨⟨_, rfl⟩, ⟨_, rfl⟩, by decide, _, rfl⟩

theorem witness_KeyWaitReportsOrRetries_reports :
    (withKeys [9, 3] State.reset).key 3 = true ∧ (∀ j, j < 3 → (withKeys [9, 3] State.reset).key j = false) ∧
    (withKeys [9, 3] State.reset).cfg.keyWait ≠ .none ∧
    (withParams (fun c => { c with keyWait := .none }) (withKeys [9, 3] State.reset)).cfg.keyWait = .none := by decide

theorem witness_KeyWaitReportsOrRetries_retries : ∀ k, State.reset.key k = false := by decide

theorem witness_TickCountsDownAndBeeps : (pending .tick).nextTransaction = .tick := rfl

theorem witness_KeyEventSetsFlagAndEndsWait : (pending (.key 15 true)).nextTransaction = .key 15 true := rfl

/-- The two waiting variants, each with the event that ends its wait. -/
theorem witness_KeyEventSetsFlagAndEndsWait_waits :
    { withKeys [7] (pending (.key 7 false)) with blocked := true, waitKey := 7 }.cfg.keyWait = .untilRelease ∧
    { withKeys [7] (pending (.key 7 false)) with blocked := true, waitKey := 7 }.nextTransaction = .key 7 false ∧
    (withParams (fun c => { c with keyWait := .untilAnyChange }) { pending (.key 2 true) with blocked := true }).cfg.keyWait =
      .untilAnyChange ∧
    (withParams (fun c => { c with keyWait := .untilAnyChange }) { pending (.key 2 true) with blocked := true }).key 2 ≠ true := by
  refine ⟨rfl, rfl, rfl, by decide⟩

/-- The longest ROM that is accepted, and the empty one. -/
theorem witness_LoadStartsTheProgram :
    (pending (.load (List.replicate 3584 0xFF))).nextTransaction = .load (List.replicate 3584 0xFF) ∧
    (List.replicate 3584 (0xFF : Byte)).length ≤ 3584 ∧ (pending (.load [])).nextTransaction = .load [] ∧ ([] : List Byte).length ≤ 3584 :=
  ⟨rfl, by rw [List.length_replicate], rfl, Nat.zero_le _⟩

/-- The shortest ROM that is rejected. -/
theorem witness_OversizedLoadIsRejected :
    (pending (.load (List.replicate 3585 0xFF))).nextTransaction = .load (List.replicate 3585 0xFF) ∧
    3584 < (List.replicate 3585 (0xFF : Byte)).length := ⟨rfl, by rw [List.length_replicate]; decide⟩

theorem witness_InitResetsEverything : (pending .init).nextTransaction = .init := rfl

theorem witness_SpeedClampsAndStatusReports :
    (pending (.speed (-5))).nextTransaction = .speed (-5) ∧ (pending .status).nextTransaction = .status := ⟨rfl, rfl⟩

theorem witness_ChannelsQueueInOrder :
    (pending .tick).nextTransaction = .tick ∧ (pending .takeFrame).nextTransaction = .takeFrame ∧ (pending .takeBeep).nextTransaction = .takeBeep :=
  ⟨rfl, rfl, rfl⟩

theorem witness_InstructionsWriteOnlyTheirSet : ∃ t, exec (.ldVxMem 2) State.reset = .next t := ⟨_, rfl⟩

theorem witness_RunningChangesOnlyAsNamed_load : ∃ t, step (pending (.load [0x12, 0x00])) = .next t ∧
    t.running ≠ (pending (.load [0x12, 0x00])).running := ⟨_, rfl, by decide⟩
theorem witness_RunningChangesOnlyAsNamed_init : ∃ t, step { pending .init with running := true } = .next t ∧
    t.running ≠ { pending .init with running := true }.running := ⟨_, rfl, by decide⟩
theorem witness_RunningChangesOnlyAsNamed_fatal : runs 0x00EE State.reset (fun t => !t.running) = true := by decide

theorem witness_OnlyEngineTouchesProgramState : ∃ t, step (pending (.key 3 true)) = .next t ∧
    (pending (.key 3 true)).nextTransaction ≠ .cycle ∧ (pending (.key 3 true)).nextTransaction ≠ .init ∧
    ∀ rom, (pending (.key 3 true)).nextTransaction ≠ .load rom :=
  ⟨_, rfl, Transaction.noConfusion, Transaction.noConfusion, fun _ => Transaction.noConfusion⟩

theorem witness_ParametersNeverChange : ∃ t, step (pending .init) = .next t := ⟨_, rfl⟩

theorem witness_OutputsAreNeverRetracted : ∃ t, step { pending .takeBeep with env := { (pending .takeBeep).env with
    trace := [.beep true], beeps := ⟨[true], []⟩ } } = .next t ∧ t.env.beeps.delivered = [true] := ⟨_, rfl, rfl⟩

theorem witness_QuiescentStatesStay_halted :
    engineNext.nextTransaction = .cycle ∧ engineNext.env.inputs = [] ∧ engineNext.env.unscheduled = .engine ∧ engineNext.Halted :=
  ⟨rfl, rfl, rfl, rfl⟩
theorem witness_QuiescentStatesStay_spin : (ready 0x1200).nextTransaction = .cycle ∧ (ready 0x1200).Spin := by
  refine ⟨rfl, rfl, rfl, ?_, ?_⟩ <;> decide
theorem witness_QuiescentStatesStay_blocked :
    { engineNext with running := true, blocked := true }.nextTransaction = .cycle ∧
    { engineNext with running := true, blocked := true }.WaitsRelease := ⟨rfl, rfl, rfl⟩
theorem witness_QuiescentStatesStay_keywait : (ready 0xFF0A).nextTransaction = .cycle ∧ (ready 0xFF0A).WaitsPress := by
  refine ⟨rfl, rfl, rfl, ⟨15, ?_⟩, ?_⟩ <;> decide

theorem witness_StepRunsAreTheInterleavings :
    (∃ t, Interleaves [.tick, .tick, .cycle, .key 3 true] State.reset t) ∧ ∃ t, Steps 1 engineNext t :=
  ⟨⟨_, _, rfl, _, rfl, _, rfl, _, rfl, rfl⟩, _, _, rfl, rfl⟩

/-- The ENGINE and the TIMER in turn. -/
def inTurn (n : Nat) : Transaction := if n % 2 = 0 then .cycle else .tick

/-- What they do from a halted machine with both timers set. -/
def haltedRun : Nat → State
  | 0 => { State.reset with dt := 5, st := 2 }
  | n + 1 => if n % 2 = 0 then haltedRun n else (haltedRun n).tick

theorem haltedRun_running (n : Nat) : (haltedRun n).running = false := by
  induction n with
  | zero => rfl
  | succ n ih =>
    rw [haltedRun]
    split
    · exact ih
    · exact ih

theorem witness_FairTimersReachZero : Executes inTurn haltedRun ∧ Fair inTurn ∧
    ∀ n, inTurn n = .cycle → (haltedRun (n + 1)).dt = (haltedRun n).dt ∧ (haltedRun (n + 1)).st = (haltedRun n).st := by
  refine ⟨fun n => ?_, fun n => ⟨⟨2 * n, by omega, by simp [inTurn]⟩, 2 * n + 1, by omega, by simp [inTurn]⟩, fun n h => ?_⟩
  · by_cases h : n % 2 = 0 <;> simp [inTurn, haltedRun, h, perform, cycle, State.idle, haltedRun_running]
  · by_cases h' : n % 2 = 0
    · simp [haltedRun, h']
    · simp [inTurn, h'] at h

theorem witness_BootFetchesTheRom : ([0x00, 0xE0] : List Byte).length + 2 ≤ 3584 := by decide

/-- A machine inside a subroutine, with a frame offered and queued, about to execute 00E0. -/
def inside : State :=
  withParams (fun c => { c with stackDepth := some 1, frameCap := 1 })
    { ready 0x00E0 with stack := [0x0206], env := { Env.empty with inputs := [.cycle], trace := [.frame Display.clear], frames := ⟨[Display.clear], []⟩ } }

theorem witness_InvariantIsKept : inside.Inv ∧ ∃ t, step inside = .next t := by
  refine ⟨⟨⟨by decide, by decide⟩, ?_, ?_, by decide, Nat.zero_le _, ?_, ?_, ?_, ?_, ?_, ?_⟩, _, rfl⟩
  · exact List.Sublist.refl _
  · exact List.Sublist.refl _
  · intro d h; cases h; decide
  all_goals intro h; first | exact absurd rfl h | rfl | exact nomatch h

theorem witness_FontStaysIntact : Memory.wf (ready 0xFA33).cfg (ready 0xFA33).mem ∧ (ready 0xFA33).FontIntact ∧
    ∃ t, step (ready 0xFA33) = .next t := by
  refine ⟨⟨by decide, by decide⟩, fun _ => by decide, _, rfl⟩

/-- Two states that differ in an output, a result and the pacing delay. -/
theorem witness_OutputsCannotBeObserved :
    { engineNext with delay := 5, env := { engineNext.env with trace := [.beep true], replies := [.loadOk] } }.hideOutputs =
      engineNext.hideOutputs ∧ (∃ t, step engineNext = .next t) ∧
    ∃ t, step { engineNext with delay := 5, env := { engineNext.env with trace := [.beep true], replies := [.loadOk] } } = .next t :=
  ⟨rfl, ⟨_, rfl⟩, _, rfl⟩

end Sys2Proof.Tests
end

section
/-! PROOFS. The decoder's answer on a byte sequence (30_encoding.md R100). -/

namespace Sys2Proof

/-- The word of two bytes is the one whose value is theirs, the first byte high (20_memory.md R74). -/
theorem eq_wordOfBytes_iff {w : Word} {hi lo : Byte} :
    w = wordOfBytes hi lo ↔ w.toNat = 256 * hi.toNat + lo.toNat := by
  rw [← toNat_wordOfBytes, BitVec.toNat_inj]

/-- From two bytes on, only the word of the first two decides the instruction, and the tail is handed on as it is. -/
theorem decode_cons_cons_eq_instr_iff {hi lo : Byte} {tail rest : List Byte} {i : Instr} :
    decode (hi :: lo :: tail) = .instr i rest ↔ tail = rest ∧ decodeWord (wordOfBytes hi lo) = some i := by
  cases h : decodeWord (wordOfBytes hi lo) with
  | none => simp [decode, h]
  | some j => simp [decode, h, and_comm]

/-- Fewer than two bytes hold no instruction, so one is read from exactly the two bytes before the rest. -/
theorem decode_eq_instr_iff {bytes rest : List Byte} {i : Instr} :
    decode bytes = .instr i rest ↔
      ∃ hi lo, bytes = hi :: lo :: rest ∧ decodeWord (wordOfBytes hi lo) = some i := by
  match bytes with
  | [] => simp [decode]
  | [_] => simp [decode]
  | hi :: lo :: tail => simp [decode_cons_cons_eq_instr_iff, and_assoc]

/-- Settles O5: the decoder reads the word of the first two bytes, which is the one word with their big-endian value. -/
theorem everyInstructionIsTwoBytesHighFirst : Obligations.EveryInstructionIsTwoBytesHighFirst := by
  intro bytes i rest
  rw [decode_eq_instr_iff]
  constructor
  · rintro ⟨hi, lo, hbytes, hword⟩
    exact ⟨hi, lo, wordOfBytes hi lo, hbytes, toNat_wordOfBytes hi lo, hword⟩
  · rintro ⟨hi, lo, w, hbytes, hvalue, hword⟩
    exact ⟨hi, lo, hbytes, eq_wordOfBytes_iff.mpr hvalue ▸ hword⟩

end Sys2Proof
end

section
/-! PROOFS. Immediate skips and the direct jump (41_control_flow.md R172, R174, R175). -/

namespace Sys2Proof.Machine

/-! ### The execute phase of the three instructions (40_cycle.md R144) -/

theorem exec_jp (nnn : BitVec 12) (s : State) : exec (.jp nnn) s = .next (s.setPc (target nnn)) := rfl

theorem exec_seImm (x : Reg) (nn : Byte) (s : State) : exec (.seImm x nn) s = .next (s.skipIf (s.readV x == nn)) := rfl

theorem exec_sneImm (x : Reg) (nn : Byte) (s : State) : exec (.sneImm x nn) s = .next (s.skipIf (s.readV x != nn)) := rfl

/-! ### The shared rules -/

theorem toNat_target (nnn : BitVec 12) : (target nnn).toNat = nnn.toNat :=
  BitVec.toNat_setWidth_of_le (by decide)

/-- Every skip instruction is a `skipIf`; what is left of each is what its test says (40_cycle.md R146). -/
theorem skipsWhen_of_exec_eq_skipIf {i : Instr} {s : State} {c : Bool} {cond : Prop}
    (hexec : exec i s = .next (s.skipIf c)) (htest : c = true ↔ cond) : SkipsWhen i s cond := by
  refine ⟨s.skipIf c, hexec, fun hcond => ?_, fun hcond => ?_, skipIf_frame s c⟩
  · rw [State.skipIf_pc, if_pos (htest.mpr hcond)]
  · rw [State.skipIf_pc, if_neg (mt htest.mp hcond)]

theorem seImm_skipsWhen (x : Reg) (nn : Byte) (s : State) :
    SkipsWhen (.seImm x nn) s ((s.readV x).toNat = nn.toNat) :=
  skipsWhen_of_exec_eq_skipIf (exec_seImm x nn s) (by rw [beq_iff_eq, BitVec.toNat_inj])

theorem sneImm_skipsWhen (x : Reg) (nn : Byte) (s : State) :
    SkipsWhen (.sneImm x nn) s ((s.readV x).toNat ≠ nn.toNat) :=
  skipsWhen_of_exec_eq_skipIf (exec_sneImm x nn s) (by rw [bne_iff_ne, BitVec.toNat_ne_iff_ne])

/-- Settles O18: both instructions are a `skipIf` whose test compares VX with NN as numbers. -/
theorem immediateSkips : Obligations.ImmediateSkips := fun x nn s =>
  ⟨⟨toNat_encodeRegByte 0x3#4 x nn, seImm_skipsWhen x nn s⟩,
    ⟨toNat_encodeRegByte 0x4#4 x nn, sneImm_skipsWhen x nn s⟩⟩

/-- Settles O13: the jump is one write of PC, and zero extension keeps the target's value. -/
theorem jumpSetsPc : Obligations.JumpSetsPc := fun nnn s =>
  ⟨toNat_encodeAddr 0x1#4 nnn, s.setPc (target nnn), exec_jp nnn s, toNat_target nnn, setPc_frame s (target nnn)⟩

end Sys2Proof.Machine
end

section
/-! PROOFS. Byte immediates, copies and bitwise combinations: instructions that write one register (42_alu.md R201 to R206). -/

namespace Sys2Proof.Machine

/-! ### The execute phase of the six instructions (40_cycle.md R144) -/

theorem exec_ldImm (x : Reg) (nn : Byte) (s : State) : exec (.ldImm x nn) s = .next (s.writeV x nn) := rfl

theorem exec_addImm (x : Reg) (nn : Byte) (s : State) : exec (.addImm x nn) s = .next (s.writeV x (s.readV x + nn)) := rfl

theorem exec_ldReg (x y : Reg) (s : State) : exec (.ldReg x y) s = .next (s.writeV x (s.readV y)) := rfl

theorem exec_orReg (x y : Reg) (s : State) : exec (.orReg x y) s = .next (s.writeV x (s.readV x ||| s.readV y)) := rfl

theorem exec_andReg (x y : Reg) (s : State) : exec (.andReg x y) s = .next (s.writeV x (s.readV x &&& s.readV y)) := rfl

theorem exec_xorReg (x y : Reg) (s : State) : exec (.xorReg x y) s = .next (s.writeV x (s.readV x ^^^ s.readV y)) := rfl

/-! ### The shared rules -/

/-- The value of a word in format RR with the major and the minor opcode together, as the opcode map gives them (R105). -/
theorem toNat_encodeRegReg_opcode (op : BitVec 4) (x y : Reg) (n : BitVec 4) :
    (encodeRegReg op x y n).toNat = op.toNat * 4096 + n.toNat + x.val * 256 + y.val * 16 := by
  rw [toNat_encodeRegReg]
  omega

/-- An instruction that is one register write writes only that register; what is left of each is the byte it writes. -/
theorem writesOnly_of_exec_eq_writeV {i : Instr} {s : State} {x : Reg} {b r : Byte}
    (hexec : exec i s = .next (s.writeV x b)) (hvalue : b = r) : WritesOnly i s x r := by
  subst hvalue
  exact ⟨s.writeV x b, hexec, s.readV_writeV_same x b, fun _ hne => s.readV_writeV_of_ne b hne, writeV_frame s x b⟩

/-- A byte is the one the statements name by its value (42_alu.md R220). -/
theorem byte_eq_ofNat_of_toNat_eq {b : Byte} {n : Nat} (hvalue : b.toNat = n) : b = BitVec.ofNat 8 n := by
  rw [← hvalue, BitVec.ofNat_toNat, BitVec.setWidth_eq]

/-! ### What each instruction writes -/

theorem ldImm_writesOnly (x : Reg) (nn : Byte) (s : State) : WritesOnly (.ldImm x nn) s x nn :=
  writesOnly_of_exec_eq_writeV (exec_ldImm x nn s) rfl

theorem addImm_writesOnly (x : Reg) (nn : Byte) (s : State) :
    WritesOnly (.addImm x nn) s x (BitVec.ofNat 8 (((s.readV x).toNat + nn.toNat) % 256)) :=
  writesOnly_of_exec_eq_writeV (exec_addImm x nn s) (byte_eq_ofNat_of_toNat_eq (BitVec.toNat_add _ _))

theorem ldReg_writesOnly (x y : Reg) (s : State) : WritesOnly (.ldReg x y) s x (s.readV y) :=
  writesOnly_of_exec_eq_writeV (exec_ldReg x y s) rfl

theorem orReg_writesOnly (x y : Reg) (s : State) :
    WritesOnly (.orReg x y) s x (BitVec.ofNat 8 ((s.readV x).toNat ||| (s.readV y).toNat)) :=
  writesOnly_of_exec_eq_writeV (exec_orReg x y s) (byte_eq_ofNat_of_toNat_eq (BitVec.toNat_or _ _))

theorem andReg_writesOnly (x y : Reg) (s : State) :
    WritesOnly (.andReg x y) s x (BitVec.ofNat 8 ((s.readV x).toNat &&& (s.readV y).toNat)) :=
  writesOnly_of_exec_eq_writeV (exec_andReg x y s) (byte_eq_ofNat_of_toNat_eq (BitVec.toNat_and _ _))

theorem xorReg_writesOnly (x y : Reg) (s : State) :
    WritesOnly (.xorReg x y) s x (BitVec.ofNat 8 ((s.readV x).toNat ^^^ (s.readV y).toNat)) :=
  writesOnly_of_exec_eq_writeV (exec_xorReg x y s) (byte_eq_ofNat_of_toNat_eq (BitVec.toNat_xor _ _))

/-- Settles O21: each is one write of VX, and byte addition is addition modulo 256. -/
theorem byteImmediates : Obligations.ByteImmediates := fun x nn s =>
  ⟨⟨toNat_encodeRegByte 0x6#4 x nn, ldImm_writesOnly x nn s⟩,
    ⟨toNat_encodeRegByte 0x7#4 x nn, addImm_writesOnly x nn s⟩⟩

/-- Settles O22: each is one write of VX, and a bitwise operation on bytes is the one on their values. -/
theorem copyAndBitwise : Obligations.CopyAndBitwise := fun x y s =>
  ⟨⟨toNat_encodeRegReg_opcode 0x8#4 x y 0x0#4, ldReg_writesOnly x y s⟩,
    ⟨toNat_encodeRegReg_opcode 0x8#4 x y 0x1#4, orReg_writesOnly x y s⟩,
    ⟨toNat_encodeRegReg_opcode 0x8#4 x y 0x2#4, andReg_writesOnly x y s⟩,
    ⟨toNat_encodeRegReg_opcode 0x8#4 x y 0x3#4, xorReg_writesOnly x y s⟩⟩

end Sys2Proof.Machine
end

section
/-! PROOFS. The three instructions that set I and nothing else (43_index_memory.md R240 to R242). -/

namespace Sys2Proof.Machine

/-! ### The execute phase of the three instructions (40_cycle.md R144) -/

theorem exec_ldI (nnn : BitVec 12) (s : State) : exec (.ldI nnn) s = .next (s.setI (target nnn)) := rfl

theorem exec_addIVx (x : Reg) (s : State) : exec (.addIVx x) s = .next (s.setI (s.i + (s.readV x).setWidth 16)) := rfl

theorem exec_ldFVx (x : Reg) (s : State) : exec (.ldFVx x) s = .next (s.setI (glyphAddr (s.readV x))) := rfl

/-! ### The shared rules -/

/-- The value of a word in format RFN with the major and the minor opcode together, as the opcode map gives them (R105). -/
theorem toNat_encodeRegByte_opcode (op : BitVec 4) (x : Reg) (b : Byte) :
    (encodeRegByte op x b).toNat = op.toNat * 4096 + b.toNat + x.val * 256 := by
  rw [toNat_encodeRegByte]
  omega

/-- An instruction that is one write of I changes only I; what is left of each is the value of the word it writes. -/
theorem exists_next_index_of_exec_eq_setI {i : Instr} {s : State} {w : Word} {n : Nat}
    (hexec : exec i s = .next (s.setI w)) (hvalue : w.toNat = n) :
    ∃ t, exec i s = .next t ∧ t.i.toNat = n ∧ UnchangedBut [.index] s t :=
  ⟨s.setI w, hexec, hvalue, setI_frame s w⟩

/-! ### The values written to I -/

/-- A byte is zero-extended before it is added to a word, and the sum wraps at 16 bits (R241). -/
theorem toNat_word_add_byte (w : Word) (b : Byte) : (w + b.setWidth 16).toNat = (w.toNat + b.toNat) % 65536 := by
  rw [BitVec.toNat_add, BitVec.toNat_setWidth_of_le (by decide)]

/-- No glyph address wraps: for the greatest byte it is 0x050 + 255 * 5, within 16 bits (R242). -/
theorem toNat_glyphAddr (b : Byte) : (glyphAddr b).toNat = 0x050 + b.toNat * 5 := by
  have hbyte := b.isLt
  rw [glyphAddr, BitVec.toNat_ofNat, fontBase]
  omega

/-- Settles O27: each is one write of I, and only the sum of FX1E can pass 16 bits. -/
theorem indexRegisterLoads : Obligations.IndexRegisterLoads := fun nnn x s =>
  ⟨⟨toNat_encodeAddr 0xA#4 nnn, exists_next_index_of_exec_eq_setI (exec_ldI nnn s) (toNat_target nnn)⟩,
    ⟨toNat_encodeRegByte_opcode 0xF#4 x 0x1E#8,
      exists_next_index_of_exec_eq_setI (exec_addIVx x s) (toNat_word_add_byte s.i (s.readV x))⟩,
    ⟨toNat_encodeRegByte_opcode 0xF#4 x 0x29#8,
      exists_next_index_of_exec_eq_setI (exec_ldFVx x s) (toNat_glyphAddr (s.readV x))⟩⟩

end Sys2Proof.Machine
end

section
/-! PROOFS. The three instructions that move a byte between a timer and VX (45_keys_timers.md R302, R305, R306). -/

namespace Sys2Proof.Machine

/-! ### The execute phase of the three instructions (40_cycle.md R144) -/

theorem exec_ldVxDt (x : Reg) (s : State) : exec (.ldVxDt x) s = .next (s.writeV x s.dt) := rfl

theorem exec_ldDtVx (x : Reg) (s : State) : exec (.ldDtVx x) s = .next (s.setDt (s.readV x)) := rfl

theorem exec_ldStVx (x : Reg) (s : State) : exec (.ldStVx x) s = .next (s.setSt (s.readV x)) := rfl

/-! ### What each instruction writes -/

theorem ldVxDt_writesOnly (x : Reg) (s : State) : WritesOnly (.ldVxDt x) s x s.dt :=
  writesOnly_of_exec_eq_writeV (exec_ldVxDt x s) rfl

theorem ldDtVx_sets_only_delayTimer (x : Reg) (s : State) :
    ∃ t, exec (.ldDtVx x) s = .next t ∧ t.dt = s.readV x ∧ UnchangedBut [.delayTimer] s t :=
  ⟨s.setDt (s.readV x), exec_ldDtVx x s, s.setDt_dt (s.readV x), setDt_frame s (s.readV x)⟩

/-- The trace is among the unchanged parts, so the instruction emits no beep (R306). -/
theorem ldStVx_sets_only_soundTimer (x : Reg) (s : State) :
    ∃ t, exec (.ldStVx x) s = .next t ∧ t.st = s.readV x ∧ UnchangedBut [.soundTimer] s t :=
  ⟨s.setSt (s.readV x), exec_ldStVx x s, s.setSt_st (s.readV x), setSt_frame s (s.readV x)⟩

/-- Settles O36: the instruction is one write of VX, with the value DT has. -/
theorem delayTimerIsRead : Obligations.DelayTimerIsRead := fun x s =>
  ⟨toNat_encodeRegByte_opcode 0xF#4 x 0x07#8, ldVxDt_writesOnly x s⟩

/-- Settles O37: each is one write of its timer, with the value VX has. -/
theorem timersAreSet : Obligations.TimersAreSet := fun x s =>
  ⟨⟨toNat_encodeRegByte_opcode 0xF#4 x 0x15#8, ldDtVx_sets_only_delayTimer x s⟩,
    ⟨toNat_encodeRegByte_opcode 0xF#4 x 0x18#8, ldStVx_sets_only_soundTimer x s⟩⟩

end Sys2Proof.Machine
end

section
/-! PROOFS. The decoder and the encoder are inverse, and the decoder reads the opcode map (30_encoding.md R104 to R108). -/

namespace Sys2Proof

/-! ### The decoder by major opcode (R104) -/

section MajorOpcode

variable {w : Word}

/-- The sixteen major opcodes. -/
theorem fieldOp_cases (w : Word) :
    fieldOp w = 0x0#4 ∨ fieldOp w = 0x1#4 ∨ fieldOp w = 0x2#4 ∨ fieldOp w = 0x3#4 ∨ fieldOp w = 0x4#4 ∨ fieldOp w = 0x5#4 ∨
    fieldOp w = 0x6#4 ∨ fieldOp w = 0x7#4 ∨ fieldOp w = 0x8#4 ∨ fieldOp w = 0x9#4 ∨ fieldOp w = 0xA#4 ∨ fieldOp w = 0xB#4 ∨
    fieldOp w = 0xC#4 ∨ fieldOp w = 0xD#4 ∨ fieldOp w = 0xE#4 ∨ fieldOp w = 0xF#4 := by
  generalize fieldOp w = op
  revert op
  decide

theorem decodeWord_op0 (h : fieldOp w = 0x0#4) : decodeWord w = decodeZero w := by simp [decodeWord, h]
theorem decodeWord_op1 (h : fieldOp w = 0x1#4) : decodeWord w = some (.jp (fieldNNN w)) := by simp [decodeWord, h]
theorem decodeWord_op2 (h : fieldOp w = 0x2#4) : decodeWord w = some (.call (fieldNNN w)) := by simp [decodeWord, h]
theorem decodeWord_op3 (h : fieldOp w = 0x3#4) : decodeWord w = some (.seImm (fieldX w) (fieldNN w)) := by
  simp [decodeWord, h]
theorem decodeWord_op4 (h : fieldOp w = 0x4#4) : decodeWord w = some (.sneImm (fieldX w) (fieldNN w)) := by
  simp [decodeWord, h]
theorem decodeWord_op5 (h : fieldOp w = 0x5#4) :
    decodeWord w = if fieldN w = 0x0#4 then some (.seReg (fieldX w) (fieldY w)) else none := by simp [decodeWord, h]
theorem decodeWord_op6 (h : fieldOp w = 0x6#4) : decodeWord w = some (.ldImm (fieldX w) (fieldNN w)) := by
  simp [decodeWord, h]
theorem decodeWord_op7 (h : fieldOp w = 0x7#4) : decodeWord w = some (.addImm (fieldX w) (fieldNN w)) := by
  simp [decodeWord, h]
theorem decodeWord_op8 (h : fieldOp w = 0x8#4) : decodeWord w = decodeArith (fieldX w) (fieldY w) (fieldN w) := by
  simp [decodeWord, h]
theorem decodeWord_op9 (h : fieldOp w = 0x9#4) :
    decodeWord w = if fieldN w = 0x0#4 then some (.sneReg (fieldX w) (fieldY w)) else none := by simp [decodeWord, h]
theorem decodeWord_opA (h : fieldOp w = 0xA#4) : decodeWord w = some (.ldI (fieldNNN w)) := by simp [decodeWord, h]
theorem decodeWord_opB (h : fieldOp w = 0xB#4) : decodeWord w = some (.jpV0 (fieldNNN w)) := by simp [decodeWord, h]
theorem decodeWord_opC (h : fieldOp w = 0xC#4) : decodeWord w = some (.rnd (fieldX w) (fieldNN w)) := by
  simp [decodeWord, h]
theorem decodeWord_opD (h : fieldOp w = 0xD#4) : decodeWord w = some (.drw (fieldX w) (fieldY w) (fieldN w).toNat) := by
  simp [decodeWord, h]
theorem decodeWord_opE (h : fieldOp w = 0xE#4) : decodeWord w = decodeKey (fieldX w) (fieldNN w) := by
  simp [decodeWord, h]
theorem decodeWord_opF (h : fieldOp w = 0xF#4) : decodeWord w = decodeMisc (fieldX w) (fieldNN w) := by
  simp [decodeWord, h]

end MajorOpcode

/-! ### Decoding an encoded instruction -/

/-- The decoder gives back the instruction its word was made from. -/
theorem decodeWord_encode {i : Instr} (hi : i.wellFormed = true) : decodeWord (encode i) = some i := by
  cases i with
  | cls => decide
  | ret => decide
  | jp nnn => simpa [encode] using decodeWord_op1 (fieldOp_encodeAddr _ nnn)
  | call nnn => simpa [encode] using decodeWord_op2 (fieldOp_encodeAddr _ nnn)
  | ldI nnn => simpa [encode] using decodeWord_opA (fieldOp_encodeAddr _ nnn)
  | jpV0 nnn => simpa [encode] using decodeWord_opB (fieldOp_encodeAddr _ nnn)
  | seImm x nn => simpa [encode] using decodeWord_op3 (fieldOp_encodeRegByte _ x nn)
  | sneImm x nn => simpa [encode] using decodeWord_op4 (fieldOp_encodeRegByte _ x nn)
  | ldImm x nn => simpa [encode] using decodeWord_op6 (fieldOp_encodeRegByte _ x nn)
  | addImm x nn => simpa [encode] using decodeWord_op7 (fieldOp_encodeRegByte _ x nn)
  | rnd x nn => simpa [encode] using decodeWord_opC (fieldOp_encodeRegByte _ x nn)
  | seReg x y => simpa [encode] using decodeWord_op5 (fieldOp_encodeRegReg _ x y 0x0#4)
  | sneReg x y => simpa [encode] using decodeWord_op9 (fieldOp_encodeRegReg _ x y 0x0#4)
  | drw x y n =>
    have hn : n < 16 := by simpa [Instr.wellFormed] using hi
    simpa [encode, Nat.mod_eq_of_lt hn] using decodeWord_opD (fieldOp_encodeRegReg _ x y (BitVec.ofNat 4 n))
  | skp x => exact decodeWord_opE (fieldOp_encodeRegByte _ x _) |>.trans (by simp [decodeKey])
  | sknp x => exact decodeWord_opE (fieldOp_encodeRegByte _ x _) |>.trans (by simp [decodeKey])
  | ldReg x y | orReg x y | andReg x y | xorReg x y | addReg x y | sub x y | shr x y | subn x y | shl x y =>
    exact decodeWord_op8 (fieldOp_encodeRegReg _ x y _) |>.trans (by simp [decodeArith])
  | ldVxDt x | ldVxK x | ldDtVx x | ldStVx x | addIVx x | ldFVx x | ldBVx x | ldMemVx x | ldVxMem x =>
    exact decodeWord_opF (fieldOp_encodeRegByte _ x _) |>.trans (by simp [decodeMisc])

/-- Settles O1: the two bytes of the instruction make its word again, and the fields of the word are its operands. -/
theorem decodeOfEncodeIsTheInstruction : Obligations.DecodeOfEncodeIsTheInstruction := by
  intro i rest hi
  refine decode_cons_cons_eq_instr_iff.mpr ⟨rfl, ?_⟩
  rw [wordOfBytes_highByte_lowByte]
  exact decodeWord_encode hi

/-! ### Encoding a decoded word -/

theorem decodeZero_eq_some {w : Word} {i : Instr} (h : decodeZero w = some i) : encode i = w ∧ i.wellFormed = true := by
  unfold decodeZero at h
  split_ifs at h with h₁ h₂
  · cases h; exact ⟨h₁.symm, rfl⟩
  · cases h; exact ⟨h₂.symm, rfl⟩

theorem decodeArith_eq_some {x y : Reg} {n : BitVec 4} {i : Instr} (h : decodeArith x y n = some i) :
    encode i = encodeRegReg 0x8#4 x y n ∧ i.wellFormed = true := by
  unfold decodeArith at h
  split_ifs at h <;> cases h <;> simp_all [encode, Instr.wellFormed]

theorem decodeKey_eq_some {x : Reg} {nn : Byte} {i : Instr} (h : decodeKey x nn = some i) :
    encode i = encodeRegByte 0xE#4 x nn ∧ i.wellFormed = true := by
  unfold decodeKey at h
  split_ifs at h <;> cases h <;> simp_all [encode, Instr.wellFormed]

theorem decodeMisc_eq_some {x : Reg} {nn : Byte} {i : Instr} (h : decodeMisc x nn = some i) :
    encode i = encodeRegByte 0xF#4 x nn ∧ i.wellFormed = true := by
  unfold decodeMisc at h
  split_ifs at h <;> cases h <;> simp_all [encode, Instr.wellFormed]

section FieldsOfAWord

variable {w : Word} {op : BitVec 4}

theorem encodeAddr_of_fieldOp (h : fieldOp w = op) : encodeAddr op (fieldNNN w) = w := h ▸ encodeAddr_fields w

theorem encodeRegByte_of_fieldOp (h : fieldOp w = op) : encodeRegByte op (fieldX w) (fieldNN w) = w :=
  h ▸ encodeRegByte_fields w

theorem encodeRegReg_of_fieldOp (h : fieldOp w = op) : encodeRegReg op (fieldX w) (fieldY w) (fieldN w) = w :=
  h ▸ encodeRegReg_fields w

theorem encodeRegReg_of_fields {n : BitVec 4} (ho : fieldOp w = op) (hn : fieldN w = n) :
    encodeRegReg op (fieldX w) (fieldY w) n = w := hn ▸ encodeRegReg_of_fieldOp ho

end FieldsOfAWord

/-- A word that decodes is the word of its instruction. -/
theorem encode_of_decodeWord {w : Word} {i : Instr} (h : decodeWord w = some i) : encode i = w ∧ i.wellFormed = true := by
  rcases fieldOp_cases w with
    ho | ho | ho | ho | ho | ho | ho | ho | ho | ho | ho | ho | ho | ho | ho | ho
  · rw [decodeWord_op0 ho] at h; exact decodeZero_eq_some h
  · rw [decodeWord_op1 ho] at h; cases h; exact ⟨encodeAddr_of_fieldOp ho, rfl⟩
  · rw [decodeWord_op2 ho] at h; cases h; exact ⟨encodeAddr_of_fieldOp ho, rfl⟩
  · rw [decodeWord_op3 ho] at h; cases h; exact ⟨encodeRegByte_of_fieldOp ho, rfl⟩
  · rw [decodeWord_op4 ho] at h; cases h; exact ⟨encodeRegByte_of_fieldOp ho, rfl⟩
  · rw [decodeWord_op5 ho] at h
    split_ifs at h with hn
    cases h; exact ⟨encodeRegReg_of_fields ho hn, rfl⟩
  · rw [decodeWord_op6 ho] at h; cases h; exact ⟨encodeRegByte_of_fieldOp ho, rfl⟩
  · rw [decodeWord_op7 ho] at h; cases h; exact ⟨encodeRegByte_of_fieldOp ho, rfl⟩
  · rw [decodeWord_op8 ho] at h
    obtain ⟨he, hi⟩ := decodeArith_eq_some h
    exact ⟨he.trans (encodeRegReg_of_fieldOp ho), hi⟩
  · rw [decodeWord_op9 ho] at h
    split_ifs at h with hn
    cases h; exact ⟨encodeRegReg_of_fields ho hn, rfl⟩
  · rw [decodeWord_opA ho] at h; cases h; exact ⟨encodeAddr_of_fieldOp ho, rfl⟩
  · rw [decodeWord_opB ho] at h; cases h; exact ⟨encodeAddr_of_fieldOp ho, rfl⟩
  · rw [decodeWord_opC ho] at h; cases h; exact ⟨encodeRegByte_of_fieldOp ho, rfl⟩
  · rw [decodeWord_opD ho] at h
    cases h
    refine ⟨?_, decide_eq_true (fieldN w).isLt⟩
    rw [encode, BitVec.ofNat_toNat, BitVec.setWidth_eq]
    exact encodeRegReg_of_fieldOp ho
  · rw [decodeWord_opE ho] at h
    obtain ⟨he, hi⟩ := decodeKey_eq_some h
    exact ⟨he.trans (encodeRegByte_of_fieldOp ho), hi⟩
  · rw [decodeWord_opF ho] at h
    obtain ⟨he, hi⟩ := decodeMisc_eq_some h
    exact ⟨he.trans (encodeRegByte_of_fieldOp ho), hi⟩

/-- Settles O2: by the major opcode of the word, whose fields are the operands of the instruction. -/
theorem encodeOfDecodeIsTheWord : Obligations.EncodeOfDecodeIsTheWord := fun _ _ h => encode_of_decodeWord h

/-- Settles O6: each word is decoded by evaluation. -/
theorem sampleWordsDecode : Obligations.SampleWordsDecode := by
  unfold Obligations.SampleWordsDecode
  decide

/-! ### The rows of the opcode map (R105) -/

/-- The instruction of each row of the opcode map, in the map's order, with the operands that stand in the word `w`. -/
def rowInstrs (w : Word) : List Instr :=
  [.cls, .ret, .jp (fieldNNN w), .call (fieldNNN w), .seImm (fieldX w) (fieldNN w), .sneImm (fieldX w) (fieldNN w),
   .seReg (fieldX w) (fieldY w), .ldImm (fieldX w) (fieldNN w), .addImm (fieldX w) (fieldNN w),
   .ldReg (fieldX w) (fieldY w), .orReg (fieldX w) (fieldY w), .andReg (fieldX w) (fieldY w), .xorReg (fieldX w) (fieldY w),
   .addReg (fieldX w) (fieldY w), .sub (fieldX w) (fieldY w), .shr (fieldX w) (fieldY w), .subn (fieldX w) (fieldY w),
   .shl (fieldX w) (fieldY w), .sneReg (fieldX w) (fieldY w), .ldI (fieldNNN w), .jpV0 (fieldNNN w),
   .rnd (fieldX w) (fieldNN w), .drw (fieldX w) (fieldY w) (fieldN w).toNat, .skp (fieldX w), .sknp (fieldX w),
   .ldVxDt (fieldX w), .ldVxK (fieldX w), .ldDtVx (fieldX w), .ldStVx (fieldX w), .addIVx (fieldX w), .ldFVx (fieldX w),
   .ldBVx (fieldX w), .ldMemVx (fieldX w), .ldVxMem (fieldX w)]

theorem opRow_rowInstrs (w : Word) : (rowInstrs w).map opRow = opcodeMap := rfl

section SelectedRow

variable {w : Word} {op : BitVec 4}

theorem eq_of_selects_whole {v : Word} (h : OpRow.selects ⟨0xFFFF#16, v⟩ w = true) : v = w := by
  have hand : w &&& 0xFFFF#16 = v := beq_iff_eq.mp h
  rw [← hand]
  exact BitVec.and_allOnes

theorem encodeRegReg_of_selects {n : BitVec 4} (h : OpRow.selects ⟨0xF00F#16, encodeRegReg op 0 0 n⟩ w = true) :
    encodeRegReg op (fieldX w) (fieldY w) n = w := by
  obtain ⟨ho, hn⟩ := selects_op_nibble.mp h
  exact encodeRegReg_of_fields ho hn

theorem encodeRegByte_of_selects {b : Byte} (h : OpRow.selects ⟨0xF0FF#16, encodeRegByte op 0 b⟩ w = true) :
    encodeRegByte op (fieldX w) b = w := by
  obtain ⟨ho, hb⟩ := selects_op_byte.mp h
  exact hb ▸ encodeRegByte_of_fieldOp ho

end SelectedRow

/-- A word that selects a row is the word of the row's instruction with the operands that stand in the word. -/
theorem encode_of_selects {w : Word} {i : Instr} (hi : i ∈ rowInstrs w) (h : (opRow i).selects w = true) :
    encode i = w ∧ i.wellFormed = true := by
  cases i with
  | cls => exact ⟨eq_of_selects_whole h, rfl⟩
  | ret => exact ⟨eq_of_selects_whole h, rfl⟩
  | jp nnn | call nnn | ldI nnn | jpV0 nnn =>
    obtain rfl : nnn = fieldNNN w := by simpa [rowInstrs] using hi
    exact ⟨encodeAddr_of_fieldOp (selects_op.mp h), rfl⟩
  | seImm x nn | sneImm x nn | ldImm x nn | addImm x nn | rnd x nn =>
    obtain ⟨rfl, rfl⟩ : x = fieldX w ∧ nn = fieldNN w := by simpa [rowInstrs] using hi
    exact ⟨encodeRegByte_of_fieldOp (selects_op.mp h), rfl⟩
  | seReg x y | ldReg x y | orReg x y | andReg x y | xorReg x y | addReg x y | sub x y | shr x y | subn x y | shl x y
  | sneReg x y =>
    obtain ⟨rfl, rfl⟩ : x = fieldX w ∧ y = fieldY w := by simpa [rowInstrs] using hi
    exact ⟨encodeRegReg_of_selects h, rfl⟩
  | drw x y n =>
    obtain ⟨rfl, rfl, rfl⟩ : x = fieldX w ∧ y = fieldY w ∧ n = (fieldN w).toNat := by simpa [rowInstrs] using hi
    exact encode_of_decodeWord (decodeWord_opD (selects_op.mp h))
  | skp x | sknp x | ldVxDt x | ldVxK x | ldDtVx x | ldStVx x | addIVx x | ldFVx x | ldBVx x | ldMemVx x | ldVxMem x =>
    obtain rfl : x = fieldX w := by simpa [rowInstrs] using hi
    exact ⟨encodeRegByte_of_selects h, rfl⟩

/-- A row of the map that a word selects is that of the instruction the word decodes to. -/
theorem decodeWord_of_selects {w : Word} {r : OpRow} (hr : r ∈ opcodeMap) (h : r.selects w = true) :
    ∃ i, decodeWord w = some i ∧ opRow i = r := by
  obtain ⟨i, hi, rfl⟩ := List.mem_map.mp (opRow_rowInstrs w ▸ hr)
  obtain ⟨rfl, hwf⟩ := encode_of_selects hi h
  exact ⟨i, decodeWord_encode hwf, rfl⟩

section
open Laws.TableRow

/-- The law of the table row, for every instruction at once. -/
theorem tableRow_statement (i : Instr) : Laws.TableRow.Statement i := by
  cases i
  exacts [cls, ret, jp _, call _, seImm _ _, sneImm _ _, seReg _ _, ldImm _ _, addImm _ _, ldReg _ _, orReg _ _,
    andReg _ _, xorReg _ _, addReg _ _, sub _ _, shr _ _, subn _ _, shl _ _, sneReg _ _, ldI _, jpV0 _, rnd _ _, drw _ _ _,
    skp _, sknp _, ldVxDt _, ldVxK _, ldDtVx _, ldStVx _, addIVx _, ldFVx _, ldBVx _, ldMemVx _, ldVxMem _]

end

theorem opcodeMap_nodup : opcodeMap.Nodup := by decide

/-- Settles O3: every row that a word selects is that of the instruction it decodes to, and the 34 rows are distinct. -/
theorem decodeAgreesWithOpcodeMap : Obligations.DecodeAgreesWithOpcodeMap := by
  intro w
  cases h : decodeWord w with
  | none =>
    refine List.filter_eq_nil_iff.mpr fun r hr hsel => ?_
    obtain ⟨i, hi, -⟩ := decodeWord_of_selects hr hsel
    rw [h] at hi
    exact nomatch hi
  | some i =>
    obtain ⟨hrow, hmem⟩ := tableRow_statement i
    rw [(encode_of_decodeWord h).1] at hrow
    have honly : ∀ r ∈ opcodeMap, r.selects w = (r == opRow i) := by
      intro r hr
      rw [Bool.eq_iff_iff, beq_iff_eq]
      refine ⟨fun hsel => ?_, fun he => he ▸ hrow⟩
      obtain ⟨j, hj, rfl⟩ := decodeWord_of_selects hr hsel
      rw [h] at hj
      cases hj
      rfl
    calc opcodeMap.filter (fun r => r.selects w)
        = opcodeMap.filter (· == opRow i) := List.filter_congr honly
      _ = List.replicate (opcodeMap.count (opRow i)) (opRow i) := List.filter_beq _
      _ = [opRow i] := by rw [List.count_eq_one_of_mem opcodeMap_nodup hmem]; rfl

/-! ### The words that are no instruction (R106) -/

theorem ite_some_eq_none {α : Type} {p : Prop} [Decidable p] {a : α} {o : Option α} :
    (if p then some a else o) = none ↔ ¬p ∧ o = none := by
  split <;> simp_all

theorem decodeZero_eq_none {w : Word} : decodeZero w = none ↔ w.toNat ≠ 0x00E0 ∧ w.toNat ≠ 0x00EE := by
  simp [decodeZero, ite_some_eq_none, ← BitVec.toNat_inj]

theorem decodeArith_eq_none {x y : Reg} {n : BitVec 4} :
    decodeArith x y n = none ↔ n.toNat ∈ [0x8, 0x9, 0xA, 0xB, 0xC, 0xD, 0xF] := by
  have hn := n.isLt
  simp only [decodeArith, ite_some_eq_none, ← BitVec.toNat_inj, BitVec.reduceToNat, and_true, List.mem_cons,
    List.not_mem_nil, or_false]
  omega

theorem decodeKey_eq_none {x : Reg} {nn : Byte} : decodeKey x nn = none ↔ nn.toNat ∉ [0x9E, 0xA1] := by
  simp [decodeKey, ite_some_eq_none, ← BitVec.toNat_inj]

theorem decodeMisc_eq_none {x : Reg} {nn : Byte} :
    decodeMisc x nn = none ↔ nn.toNat ∉ [0x07, 0x0A, 0x15, 0x18, 0x1E, 0x29, 0x33, 0x55, 0x65] := by
  simp [decodeMisc, ite_some_eq_none, ← BitVec.toNat_inj]

/-- The nibble of 5XYn and 9XYn that the opcode map fixes to 0 (R108). -/
theorem ite_fieldN_eq_none {w : Word} {i : Instr} :
    (if fieldN w = 0x0#4 then some i else none) = none ↔ w.toNat % 16 ≠ 0 := by
  rw [ite_some_eq_none, ← BitVec.toNat_inj, toNat_fieldN]
  simp

/-- Settles O4: by the major opcode of the word, whose other fields are remainders of its value. -/
theorem unrecognizedWordsAreTheListedOnes : Obligations.UnrecognizedWordsAreTheListedOnes := by
  intro w
  have hop := toNat_fieldOp w
  rcases fieldOp_cases w with
    ho | ho | ho | ho | ho | ho | ho | ho | ho | ho | ho | ho | ho | ho | ho | ho <;>
    rw [ho, BitVec.toNat_ofNat] at hop
  · rw [decodeWord_op0 ho, decodeZero_eq_none]; omega
  · rw [decodeWord_op1 ho]; exact iff_of_false (Option.some_ne_none _) (by omega)
  · rw [decodeWord_op2 ho]; exact iff_of_false (Option.some_ne_none _) (by omega)
  · rw [decodeWord_op3 ho]; exact iff_of_false (Option.some_ne_none _) (by omega)
  · rw [decodeWord_op4 ho]; exact iff_of_false (Option.some_ne_none _) (by omega)
  · rw [decodeWord_op5 ho, ite_fieldN_eq_none]; omega
  · rw [decodeWord_op6 ho]; exact iff_of_false (Option.some_ne_none _) (by omega)
  · rw [decodeWord_op7 ho]; exact iff_of_false (Option.some_ne_none _) (by omega)
  · rw [decodeWord_op8 ho, decodeArith_eq_none, toNat_fieldN]; simp only [List.mem_cons, List.not_mem_nil, or_false]; omega
  · rw [decodeWord_op9 ho, ite_fieldN_eq_none]; omega
  · rw [decodeWord_opA ho]; exact iff_of_false (Option.some_ne_none _) (by omega)
  · rw [decodeWord_opB ho]; exact iff_of_false (Option.some_ne_none _) (by omega)
  · rw [decodeWord_opC ho]; exact iff_of_false (Option.some_ne_none _) (by omega)
  · rw [decodeWord_opD ho]; exact iff_of_false (Option.some_ne_none _) (by omega)
  · rw [decodeWord_opE ho, decodeKey_eq_none, toNat_fieldNN]; simp only [List.mem_cons, List.not_mem_nil, or_false]; omega
  · rw [decodeWord_opF ho, decodeMisc_eq_none, toNat_fieldNN]; simp only [List.mem_cons, List.not_mem_nil, or_false]; omega

end Sys2Proof
end

section
/-! PROOFS. The execute phase: its equations, that it always answers, and what each instruction leaves unchanged (40_cycle.md
R144, R148, 10_state.md R32). -/

namespace Sys2Proof.Machine

/-! ### The execute phase of the remaining instructions (40_cycle.md R144) -/

section Equations

variable (s : State) (x y : Reg)

theorem exec_cls : exec .cls s = .next (s.setDisp Display.clear).publishFrame := rfl

theorem exec_jpV0 (nnn : BitVec 12) : exec (.jpV0 nnn) s = .next (s.setPc (target nnn + (s.readV 0).setWidth 16)) := rfl

theorem exec_seReg : exec (.seReg x y) s = .next (s.skipIf (s.readV x == s.readV y)) := rfl

theorem exec_sneReg : exec (.sneReg x y) s = .next (s.skipIf (s.readV x != s.readV y)) := rfl

theorem exec_skp : exec (.skp x) s = .next (s.skipIf (s.key (keyIndex (s.readV x)))) := rfl

theorem exec_sknp : exec (.sknp x) s = .next (s.skipIf (!s.key (keyIndex (s.readV x)))) := rfl

theorem exec_addReg :
    exec (.addReg x y) s = .next (s.resultThenFlag x (s.readV x + s.readV y) (carries (s.readV x) (s.readV y))) := rfl

theorem exec_sub :
    exec (.sub x y) s = .next (s.resultThenFlag x (s.readV x - s.readV y) (noBorrow (s.readV x) (s.readV y))) := rfl

theorem exec_subn :
    exec (.subn x y) s = .next (s.resultThenFlag x (s.readV y - s.readV x) (noBorrow (s.readV y) (s.readV x))) := rfl

theorem exec_shr :
    exec (.shr x y) s = .next (s.shiftResult x (s.shiftOperand x y >>> 1) (lowBit (s.shiftOperand x y))) := rfl

theorem exec_shl :
    exec (.shl x y) s = .next (s.shiftResult x (s.shiftOperand x y <<< 1) (highBit (s.shiftOperand x y))) := rfl

theorem exec_rnd (nn : Byte) : exec (.rnd x nn) s = .next (s.consumeRand.writeV x (s.rand &&& nn)) := rfl

theorem exec_ldBVx : exec (.ldBVx x) s = .next (s.storeBytes (s.ea 0) (decimalDigits (s.readV x))) := rfl

theorem exec_ldMemVx :
    exec (.ldMemVx x) s = .next ((s.storeBytes (s.ea 0) ((regsUpTo x).map s.readV)).setI (s.iAfter x)) := rfl

theorem exec_ldVxMem : exec (.ldVxMem x) s = .next ((s.loadRegs (s.ea 0) (regsUpTo x)).setI (s.iAfter x)) := rfl

/-- The canvas that DXYN leaves: its display and its collision flag (44_display.md R272). -/
def State.canvasAfterDraw (s : State) (x y : Reg) (n : Nat) : Canvas :=
  (Canvas.mk s.disp false).drawRows (s.readV y).toNat (s.readV x).toNat (s.sprite n)

theorem exec_drw (n : Nat) :
    exec (.drw x y n) s =
      .next ((s.setDisp (s.canvasAfterDraw x y n).disp).writeV vf (flag (s.canvasAfterDraw x y n).collision)).publishFrame := rfl

variable {s}

theorem exec_ret_of_nil (h : s.stack = []) :
    exec .ret s = .next (s.raiseFatal .emptyStackReturn s.fetchedAt (encode .ret)) := by
  simp [exec, execRet, h]

theorem exec_ret_of_cons {w : Word} {rest : List Word} (h : s.stack = w :: rest) :
    exec .ret s = .next ((s.setStack rest).setPc w) := by
  simp [exec, execRet, h]

theorem exec_call_of_full {nnn : BitVec 12} (h : s.stackFull = true) :
    exec (.call nnn) s = .next (s.raiseFatal .stackOverflow s.fetchedAt (encode (.call nnn))) := by
  simp [exec, execCall, h]

theorem exec_call_of_room {nnn : BitVec 12} (h : s.stackFull = false) :
    exec (.call nnn) s = .next ((s.setStack (s.pc :: s.stack)).setPc (target nnn)) := by
  simp [exec, execCall, h]

theorem exec_ldVxK_of_some {x : Reg} {k : Key} (h : s.leastKey = some k) :
    exec (.ldVxK x) s = .next ((s.writeV x (BitVec.ofNat 8 k.val)).beginWait k) := by
  simp [exec, execLdVxK, h]

theorem exec_ldVxK_of_none {x : Reg} (h : s.leastKey = none) : exec (.ldVxK x) s = .next (s.setPc (s.pc - 2)) := by
  simp [exec, execLdVxK, h]

end Equations

/-! ### Everything the branching instructions can do -/

theorem exec_ret_cases {s t : State} (h : exec .ret s = .next t) :
    (s.stack = [] ∧ t = s.raiseFatal .emptyStackReturn s.fetchedAt (encode .ret)) ∨
    ∃ w rest, s.stack = w :: rest ∧ t = (s.setStack rest).setPc w := by
  cases hs : s.stack with
  | nil => rw [exec_ret_of_nil hs] at h; cases h; exact .inl ⟨rfl, rfl⟩
  | cons w rest => rw [exec_ret_of_cons hs] at h; cases h; exact .inr ⟨w, rest, rfl, rfl⟩

theorem exec_call_cases {nnn : BitVec 12} {s t : State} (h : exec (.call nnn) s = .next t) :
    (s.stackFull = true ∧ t = s.raiseFatal .stackOverflow s.fetchedAt (encode (.call nnn))) ∨
    (s.stackFull = false ∧ t = (s.setStack (s.pc :: s.stack)).setPc (target nnn)) := by
  cases hs : s.stackFull with
  | true => rw [exec_call_of_full hs] at h; cases h; exact .inl ⟨rfl, rfl⟩
  | false => rw [exec_call_of_room hs] at h; cases h; exact .inr ⟨rfl, rfl⟩

theorem exec_ldVxK_cases {x : Reg} {s t : State} (h : exec (.ldVxK x) s = .next t) :
    (∃ k, s.leastKey = some k ∧ t = (s.writeV x (BitVec.ofNat 8 k.val)).beginWait k) ∨
    (s.leastKey = none ∧ t = s.setPc (s.pc - 2)) := by
  cases hk : s.leastKey with
  | some k => rw [exec_ldVxK_of_some hk] at h; cases h; exact .inl ⟨k, rfl, rfl⟩
  | none => rw [exec_ldVxK_of_none hk] at h; cases h; exact .inr ⟨rfl, rfl⟩

/-! ### Every instruction answers a next state (R148) -/

theorem exec_answers_next (i : Instr) (s : State) : ∃ t, exec i s = .next t := by
  cases i
  case ret =>
    cases hs : s.stack with
    | nil => exact ⟨_, exec_ret_of_nil hs⟩
    | cons w rest => exact ⟨_, exec_ret_of_cons hs⟩
  case call nnn =>
    cases hs : s.stackFull with
    | true => exact ⟨_, exec_call_of_full hs⟩
    | false => exact ⟨_, exec_call_of_room hs⟩
  case ldVxK x =>
    cases hk : s.leastKey with
    | some k => exact ⟨_, exec_ldVxK_of_some hk⟩
    | none => exact ⟨_, exec_ldVxK_of_none hk⟩
  all_goals exact ⟨_, rfl⟩

/-! ### What the shared operations leave unchanged -/

/-- Two updates in a row change at most what each of them changes. -/
theorem UnchangedBut.comp {ps qs rs : List Part} {s t u : State} (h : UnchangedBut ps s t) (h' : UnchangedBut qs t u)
    (hs : ps ++ qs ⊆ rs) : UnchangedBut rs s u :=
  (h.mono fun _ hp => hs (List.mem_append_left qs hp)).trans (h'.mono fun _ hq => hs (List.mem_append_right ps hq))

section Frames

variable (s : State)

theorem resultThenFlag_frame (x : Reg) (r : Byte) (f : Bool) : UnchangedBut [.registers] s (s.resultThenFlag x r f) :=
  (writeV_frame s x r).trans (writeV_frame _ vf _)

theorem flagThenResult_frame (x : Reg) (r : Byte) (f : Bool) : UnchangedBut [.registers] s (s.flagThenResult x r f) :=
  (writeV_frame s vf _).trans (writeV_frame _ x r)

theorem shiftResult_frame (x : Reg) (r : Byte) (f : Bool) : UnchangedBut [.registers] s (s.shiftResult x r f) := by
  unfold State.shiftResult
  split
  · exact flagThenResult_frame s x r f
  · exact resultThenFlag_frame s x r f

theorem raiseFatal_frame (cause : Cause) (a w : Word) :
    UnchangedBut [.running, .faultRecord, .trace] s (s.raiseFatal cause a w) := by
  obtain ⟨-, -, -, hframe⟩ := raiseFatal_halts s cause a w
  exact hframe

variable {s}

theorem readV_resultThenFlag_of_ne {x r : Reg} (b : Byte) (f : Bool) (hx : r ≠ x) (hf : r ≠ vf) :
    (s.resultThenFlag x b f).readV r = s.readV r := by
  rw [State.resultThenFlag, State.readV_writeV_of_ne _ _ hf, State.readV_writeV_of_ne _ _ hx]

theorem readV_flagThenResult_of_ne {x r : Reg} (b : Byte) (f : Bool) (hx : r ≠ x) (hf : r ≠ vf) :
    (s.flagThenResult x b f).readV r = s.readV r := by
  rw [State.flagThenResult, State.readV_writeV_of_ne _ _ hx, State.readV_writeV_of_ne _ _ hf]

theorem readV_shiftResult_of_ne {x r : Reg} (b : Byte) (f : Bool) (hx : r ≠ x) (hf : r ≠ vf) :
    (s.shiftResult x b f).readV r = s.readV r := by
  unfold State.shiftResult
  split
  · exact readV_flagThenResult_of_ne b f hx hf
  · exact readV_resultThenFlag_of_ne b f hx hf

end Frames

/-! ### What each instruction leaves unchanged (10_state.md R32) -/

theorem exec_frame {i : Instr} {s t : State} (h : exec i s = .next t) : UnchangedBut (writeSet i) s t := by
  cases i with
  | cls => cases h; exact (setDisp_frame s _).comp (publishFrame_frame _) (by simp [writeSet])
  | drw x y n =>
    cases h
    have hdraw : UnchangedBut [.display, .registers] s _ :=
      (setDisp_frame s (s.canvasAfterDraw x y n).disp).comp (writeV_frame _ vf (flag (s.canvasAfterDraw x y n).collision)) (by simp)
    exact hdraw.comp (publishFrame_frame _) (by simp [writeSet])
  | ret =>
    obtain ⟨-, rfl⟩ | ⟨w, rest, -, rfl⟩ := exec_ret_cases h
    · exact (raiseFatal_frame s _ _ _).mono (by simp [writeSet])
    · exact (setStack_frame s rest).comp (setPc_frame _ w) (by simp [writeSet])
  | call nnn =>
    obtain ⟨-, rfl⟩ | ⟨-, rfl⟩ := exec_call_cases h
    · exact (raiseFatal_frame s _ _ _).mono (by simp [writeSet])
    · exact (setStack_frame s _).comp (setPc_frame _ _) (by simp [writeSet])
  | ldVxK x =>
    obtain ⟨k, -, rfl⟩ | ⟨-, rfl⟩ := exec_ldVxK_cases h
    · exact (writeV_frame s x _).comp (beginWait_frame _ k) (by simp [writeSet])
    · exact (setPc_frame s _).mono (by simp [writeSet])
  | jp nnn | jpV0 nnn => cases h; exact setPc_frame s _
  | seImm x nn | sneImm x nn | seReg x y | sneReg x y | skp x | sknp x => cases h; exact skipIf_frame s _
  | ldImm x nn | addImm x nn | ldReg x y | orReg x y | andReg x y | xorReg x y | ldVxDt x =>
    cases h; exact writeV_frame s x _
  | addReg x y | sub x y | subn x y => cases h; exact resultThenFlag_frame s x _ _
  | shr x y | shl x y => cases h; exact shiftResult_frame s x _ _
  | rnd x nn => cases h; exact (consumeRand_frame s).comp (writeV_frame _ x _) (by simp [writeSet])
  | ldI nnn | addIVx x | ldFVx x => cases h; exact setI_frame s _
  | ldDtVx x => cases h; exact setDt_frame s _
  | ldStVx x => cases h; exact setSt_frame s _
  | ldBVx x => cases h; exact storeBytes_frame s _ _
  | ldMemVx x => cases h; exact (storeBytes_frame s _ _).comp (setI_frame _ _) (by simp [writeSet])
  | ldVxMem x => cases h; exact (loadRegs_frame s _ _).comp (setI_frame _ _) (by simp [writeSet])

/-- An instruction writes only the registers that its row names. -/
theorem exec_readV_of_notMem {i : Instr} {s t : State} (h : exec i s = .next t) {r : Reg} (hr : r ∉ writtenRegs i) :
    t.readV r = s.readV r := by
  cases i with
  | ldImm x nn | addImm x nn | ldReg x y | orReg x y | andReg x y | xorReg x y | ldVxDt x =>
    cases h; exact s.readV_writeV_of_ne _ (List.ne_of_not_mem_cons hr)
  | rnd x nn =>
    cases h
    rw [State.readV_writeV_of_ne _ _ (List.ne_of_not_mem_cons hr), State.readV_congr s.consumeRand_v]
  | ldVxK x =>
    obtain ⟨k, -, rfl⟩ | ⟨-, rfl⟩ := exec_ldVxK_cases h
    · rw [State.readV_congr (State.beginWait_v _ k), State.readV_writeV_of_ne _ _ (List.ne_of_not_mem_cons hr)]
    · rfl
  | addReg x y | sub x y | subn x y =>
    obtain ⟨hx, hf⟩ : r ≠ x ∧ r ≠ vf := by simpa [writtenRegs] using hr
    cases h; exact readV_resultThenFlag_of_ne _ _ hx hf
  | shr x y | shl x y =>
    obtain ⟨hx, hf⟩ : r ≠ x ∧ r ≠ vf := by simpa [writtenRegs] using hr
    cases h; exact readV_shiftResult_of_ne _ _ hx hf
  | drw x y n =>
    cases h
    exact State.readV_writeV_of_ne (s.setDisp (s.canvasAfterDraw x y n).disp) _ (List.ne_of_not_mem_cons hr)
  | ldVxMem x =>
    cases h
    exact (State.readV_loadRegs (s.ea 0) (regsUpTo x) r).trans (if_neg hr)
  | cls | ret | jp | call | seImm | sneImm | seReg | sneReg | ldI | jpV0 | skp | sknp | ldDtVx | ldStVx | addIVx | ldFVx
  | ldBVx | ldMemVx => exact exec_frame h .registers (by simp [writeSet]) r

/-- Settles O48: every meaning is made of the shared operations, each of which says what it leaves unchanged. -/
theorem instructionsWriteOnlyTheirSet : Obligations.InstructionsWriteOnlyTheirSet :=
  fun _ _ _ h => ⟨exec_frame h, fun _ hr => exec_readV_of_notMem h hr⟩

end Sys2Proof.Machine
end

section
/-! PROOFS. Calls, returns, the offset jump, register skips and key skips (41_control_flow.md R171, R173, R176 to R178,
45_keys_timers.md R300, R301). -/

namespace Sys2Proof.Machine

/-! ### The stack (10_state.md R36) -/

/-- An unbounded stack is never full, a finite one is while its depth is reached. -/
theorem stackFull_eq_true {s : State} : s.stackFull = true ↔ ∃ d, s.cfg.stackDepth = some d ∧ d ≤ s.stack.length := by
  unfold State.stackFull
  cases s.cfg.stackDepth with
  | none => simp
  | some d => simp

theorem stackFull_eq_false {s : State} : s.stackFull = false ↔ ∀ d, s.cfg.stackDepth = some d → s.stack.length < d := by
  rw [← Bool.not_eq_true, stackFull_eq_true]
  simp only [not_exists, not_and, Nat.not_le]

/-! ### Calls and returns -/

/-- Settles O15: a call pushes and jumps while the stack is not full, and raises the halt when it is. -/
theorem callPushesOrHalts : Obligations.CallPushesOrHalts := by
  refine fun nnn s => ⟨toNat_encodeAddr 0x2#4 nnn, fun hroom => ?_, fun d hd hfull => ?_⟩
  · refine ⟨_, exec_call_of_room (stackFull_eq_false.mpr hroom), rfl, toNat_target nnn, ?_⟩
    exact (setStack_frame s _).comp (setPc_frame _ _) (by simp)
  · exact ⟨_, exec_call_of_full (stackFull_eq_true.mpr ⟨d, hd, hfull⟩), raiseFatal_halts s _ _ _⟩

/-- Settles O16: a return pops the top into PC, and raises the halt when there is none. -/
theorem returnPopsTheStack : Obligations.ReturnPopsTheStack := by
  refine ⟨rfl, fun s w rest hs => ?_, fun s hs => ?_⟩
  · exact ⟨_, exec_ret_of_cons hs, rfl, rfl, (setStack_frame s rest).comp (setPc_frame _ w) (by simp)⟩
  · exact ⟨_, exec_ret_of_nil hs, raiseFatal_halts s _ _ _⟩

/-- Settles O17: the call pushed PC, which is what the return pops. -/
theorem returnUndoesCall : Obligations.ReturnUndoesCall := by
  intro nnn s t u hroom hcall hstack
  rw [exec_call_of_room (stackFull_eq_false.mpr hroom)] at hcall
  cases hcall
  exact ⟨_, exec_ret_of_cons hstack, rfl, rfl⟩

/-! ### The offset jump (R178) -/

/-- The target and V0 together stay below 2^16, so the sum of BNNN never wraps. -/
theorem toNat_target_add_byte (nnn : BitVec 12) (b : Byte) :
    (target nnn + b.setWidth 16).toNat = nnn.toNat + b.toNat := by
  have hnnn := nnn.isLt
  have hb := b.isLt
  rw [toNat_word_add_byte, toNat_target]
  omega

/-- Settles O14: the jump is one write of PC, with a sum that does not wrap. -/
theorem jumpOffsetAddsV0 : Obligations.JumpOffsetAddsV0 := fun nnn s =>
  ⟨toNat_encodeAddr 0xB#4 nnn, _, exec_jpV0 s nnn, toNat_target_add_byte nnn (s.readV 0), setPc_frame s _⟩

/-! ### Skips on registers and keys -/

theorem seReg_skipsWhen (x y : Reg) (s : State) : SkipsWhen (.seReg x y) s ((s.readV x).toNat = (s.readV y).toNat) :=
  skipsWhen_of_exec_eq_skipIf (exec_seReg s x y) (by rw [beq_iff_eq, BitVec.toNat_inj])

theorem sneReg_skipsWhen (x y : Reg) (s : State) : SkipsWhen (.sneReg x y) s ((s.readV x).toNat ≠ (s.readV y).toNat) :=
  skipsWhen_of_exec_eq_skipIf (exec_sneReg s x y) (by rw [bne_iff_ne, BitVec.toNat_ne_iff_ne])

/-- Settles O19: both instructions are a `skipIf` whose test compares VX with VY as numbers. -/
theorem registerSkips : Obligations.RegisterSkips := fun x y s =>
  ⟨⟨toNat_encodeRegReg_opcode 0x5#4 x y 0x0#4, seReg_skipsWhen x y s⟩,
    ⟨toNat_encodeRegReg_opcode 0x9#4 x y 0x0#4, sneReg_skipsWhen x y s⟩⟩

/-- The key that a byte names is its low nibble (45_keys_timers.md R307). -/
theorem val_keyIndex (b : Byte) : (keyIndex b).val = b.toNat % 16 := by
  change (b.extractLsb' 0 4).toNat = _
  simp [BitVec.extractLsb'_toNat]

/-- Settles O20: both instructions are a `skipIf` whose test is the flag of the key that VX names. -/
theorem keySkips : Obligations.KeySkips := by
  intro x k s hk
  have hkey : keyIndex (s.readV x) = k := Fin.ext ((val_keyIndex _).trans hk.symm)
  refine ⟨⟨toNat_encodeRegByte_opcode 0xE#4 x 0x9E#8, ?_⟩, ⟨toNat_encodeRegByte_opcode 0xE#4 x 0xA1#8, ?_⟩⟩
  · exact skipsWhen_of_exec_eq_skipIf (exec_skp s x) (by rw [hkey])
  · exact skipsWhen_of_exec_eq_skipIf (exec_sknp s x) (by rw [hkey, Bool.not_eq_true'])

end Sys2Proof.Machine
end

section
/-! PROOFS. Arithmetic with a flag, shifts and the random byte (42_alu.md R207 to R212). -/

namespace Sys2Proof.Machine

/-! ### Flags as numbers -/

theorem toNat_flag_decide (p : Prop) [Decidable p] : (flag (decide p)).toNat = if p then 1 else 0 := by
  by_cases h : p <;> simp [flag, h]

/-- A bit of a byte as the flag it is shifted into. -/
theorem toNat_flag_getLsbD (b : Byte) (j : Nat) : (flag (b.getLsbD j)).toNat = b.toNat / 2 ^ j % 2 := by
  have hbit : b.getLsbD j = decide (b.toNat / 2 ^ j % 2 = 1) := by
    rw [← BitVec.testBit_toNat, Nat.testBit_eq_decide_div_mod_eq]
  rw [hbit, toNat_flag_decide]
  split <;> omega

/-! ### Result, then flag: 8XY4, 8XY5, 8XY7 -/

/-- VF holds the flag, whatever the destination: the flag is written last (D9). -/
theorem readV_resultThenFlag_vf (s : State) (x : Reg) (r : Byte) (f : Bool) :
    (s.resultThenFlag x r f).readV vf = flag f :=
  State.readV_writeV_same _ vf _

theorem readV_resultThenFlag_dest (s : State) {x : Reg} (hx : x ≠ vf) (r : Byte) (f : Bool) :
    (s.resultThenFlag x r f).readV x = r := by
  rw [State.resultThenFlag, State.readV_writeV_of_ne _ _ hx, State.readV_writeV_same]

/-- An instruction that writes its result and then its flag; what is left of each is the value of the two. -/
theorem exists_next_of_exec_eq_resultThenFlag {i : Instr} {s : State} {x : Reg} {b : Byte} {p : Prop} [Decidable p] {n : Nat}
    (hexec : exec i s = .next (s.resultThenFlag x b (decide p))) (hvalue : b.toNat = n) :
    ∃ t, exec i s = .next t ∧ (t.readV 15).toNat = (if p then 1 else 0) ∧ (x ≠ 15 → (t.readV x).toNat = n) ∧
      (∀ r, r ≠ x → r ≠ 15 → t.readV r = s.readV r) ∧ UnchangedBut [.registers] s t := by
  refine ⟨_, hexec, ?_, fun hx => ?_, fun r hx hf => readV_resultThenFlag_of_ne _ _ hx hf, resultThenFlag_frame s x _ _⟩
  · rw [readV_resultThenFlag_vf, toNat_flag_decide]
  · rw [readV_resultThenFlag_dest s hx, hvalue]

theorem toNat_byte_sub (a b : Byte) : (a - b).toNat = (a.toNat + 256 - b.toNat) % 256 := by
  have ha := a.isLt
  have hb := b.isLt
  rw [BitVec.toNat_sub]
  omega

/-- Settles O23: the carry is written last, and byte addition is addition modulo 256. -/
theorem addSetsCarry : Obligations.AddSetsCarry := fun x y s =>
  ⟨toNat_encodeRegReg_opcode 0x8#4 x y 0x4#4,
    exists_next_of_exec_eq_resultThenFlag (exec_addReg s x y) (BitVec.toNat_add _ _)⟩

/-- Settles O24: both differences write "no borrow" last, and byte subtraction is subtraction modulo 256. -/
theorem subtractSetsNoBorrow : Obligations.SubtractSetsNoBorrow := fun x y s =>
  ⟨⟨toNat_encodeRegReg_opcode 0x8#4 x y 0x5#4,
      exists_next_of_exec_eq_resultThenFlag (exec_sub s x y) (toNat_byte_sub _ _)⟩,
    ⟨toNat_encodeRegReg_opcode 0x8#4 x y 0x7#4,
      exists_next_of_exec_eq_resultThenFlag (exec_subn s x y) (toNat_byte_sub _ _)⟩⟩

/-! ### Shifts, in the order of VF_ORDER: 8XY6, 8XYE -/

theorem shiftResult_of_textOrder {s : State} (h : s.cfg.vfOrder = .textOrder) (x : Reg) (r : Byte) (f : Bool) :
    s.shiftResult x r f = s.flagThenResult x r f := by
  simp [State.shiftResult, h]

theorem shiftResult_of_flagLast {s : State} (h : s.cfg.vfOrder = .flagLast) (x : Reg) (r : Byte) (f : Bool) :
    s.shiftResult x r f = s.resultThenFlag x r f := by
  simp [State.shiftResult, h]

/-- With another destination than VF the order of the two writes does not matter. -/
theorem readV_shiftResult_of_dest_ne (s : State) {x : Reg} (hx : x ≠ vf) (b : Byte) (f : Bool) :
    (s.shiftResult x b f).readV x = b ∧ (s.shiftResult x b f).readV vf = flag f := by
  cases h : s.cfg.vfOrder with
  | textOrder =>
    rw [shiftResult_of_textOrder h, State.flagThenResult, State.readV_writeV_same,
      State.readV_writeV_of_ne _ _ hx.symm, State.readV_writeV_same]
    exact ⟨rfl, rfl⟩
  | flagLast =>
    rw [shiftResult_of_flagLast h]
    exact ⟨readV_resultThenFlag_dest s hx b f, readV_resultThenFlag_vf s x b f⟩

/-- A shift instruction; what is left of each is the value of its result and of the bit shifted out. -/
theorem exists_next_of_exec_eq_shiftResult {i : Instr} {s : State} {x : Reg} {b : Byte} {f : Bool} {n m : Nat}
    (hexec : exec i s = .next (s.shiftResult x b f)) (hvalue : b.toNat = n) (hflag : (flag f).toNat = m) :
    ∃ t, exec i s = .next t ∧ (x ≠ 15 → (t.readV x).toNat = n ∧ (t.readV 15).toNat = m) ∧
      (x = 15 → s.cfg.vfOrder = .textOrder → (t.readV 15).toNat = n) ∧
      (x = 15 → s.cfg.vfOrder = .flagLast → (t.readV 15).toNat = m) ∧
      (∀ r, r ≠ x → r ≠ 15 → t.readV r = s.readV r) ∧ UnchangedBut [.registers] s t := by
  refine ⟨_, hexec, fun hx => ?_, fun hx ho => ?_, fun hx ho => ?_, fun r hx hf => readV_shiftResult_of_ne b f hx hf,
    shiftResult_frame s x b f⟩
  · obtain ⟨hdest, hvf⟩ := readV_shiftResult_of_dest_ne s hx b f
    rw [hdest, hvf]
    exact ⟨hvalue, hflag⟩
  · subst hx
    rw [shiftResult_of_textOrder ho, State.flagThenResult, State.readV_writeV_same, hvalue]
  · rw [shiftResult_of_flagLast ho, readV_resultThenFlag_vf, hflag]

/-- Which register is shifted is SHIFT_SOURCE (D7). -/
theorem toNat_shiftOperand {s : State} {x y : Reg} {n : Nat} (hvy : s.cfg.shiftSource = .vy → n = (s.readV y).toNat)
    (hvx : s.cfg.shiftSource = .vx → n = (s.readV x).toNat) : (s.shiftOperand x y).toNat = n := by
  unfold State.shiftOperand
  cases h : s.cfg.shiftSource with
  | vy => exact (hvy h).symm
  | vx => exact (hvx h).symm

theorem toNat_byte_shiftRight_one (b : Byte) : (b >>> 1).toNat = b.toNat / 2 := by
  rw [BitVec.toNat_ushiftRight, Nat.shiftRight_eq_div_pow]

theorem toNat_byte_shiftLeft_one (b : Byte) : (b <<< 1).toNat = b.toNat * 2 % 256 := by
  rw [BitVec.toNat_shiftLeft, Nat.shiftLeft_eq]

/-- Settles O25: the operand by SHIFT_SOURCE, then the two writes by VF_ORDER. -/
theorem shiftsFollowTheParameters : Obligations.ShiftsFollowTheParameters := by
  intro x y s t₀ hvy hvx
  have hoperand := toNat_shiftOperand hvy hvx
  have hlow : (flag (lowBit (s.shiftOperand x y))).toNat = t₀ % 2 := by
    rw [lowBit, toNat_flag_getLsbD, hoperand, Nat.pow_zero, Nat.div_one]
  have hhigh : (flag (highBit (s.shiftOperand x y))).toNat = t₀ / 128 := by
    have hbyte := (s.shiftOperand x y).isLt
    rw [highBit, toNat_flag_getLsbD, hoperand]
    omega
  refine ⟨⟨toNat_encodeRegReg_opcode 0x8#4 x y 0x6#4, ?_⟩, ⟨toNat_encodeRegReg_opcode 0x8#4 x y 0xE#4, ?_⟩⟩
  · exact exists_next_of_exec_eq_shiftResult (exec_shr s x y) (by rw [toNat_byte_shiftRight_one, hoperand]) hlow
  · exact exists_next_of_exec_eq_shiftResult (exec_shl s x y) (by rw [toNat_byte_shiftLeft_one, hoperand]) hhigh

/-! ### The random byte: CXNN -/

/-- The byte drawn is the one supplied, and it is consumed (R221). -/
theorem rand_of_supplied {s : State} {b : Byte} {rest : List Byte} (h : s.env.draws = b :: rest) :
    s.rand = b ∧ s.consumeRand.env.draws = rest ∧ s.consumeRand.env.drawn = s.env.drawn := by
  simp [State.rand, State.consumeRand, h]

/-- With no byte supplied one more free value is used up (log 2). -/
theorem consumeRand_of_none_supplied {s : State} (h : s.env.draws = []) :
    s.consumeRand.env.draws = [] ∧ s.consumeRand.env.drawn = s.env.drawn + 1 := by
  simp [State.consumeRand, h]

/-- Settles O26: the mask works bit by bit on the byte drawn, which is the supplied one where there is one. -/
theorem randomByteUnderMask : Obligations.RandomByteUnderMask := by
  intro x nn s
  refine ⟨toNat_encodeRegByte 0xC#4 x nn, _, s.rand, exec_rnd s x nn, fun j => ?_, fun b' rest h => ?_, fun h => ?_,
    fun r hr => ?_, exec_frame (exec_rnd s x nn) |>.mono (by simp [writeSet])⟩
  · rw [State.readV_writeV_same, BitVec.getLsbD_and]
  · exact rand_of_supplied h
  · exact consumeRand_of_none_supplied h
  · rw [State.readV_writeV_of_ne _ _ hr, State.readV_congr s.consumeRand_v]

end Sys2Proof.Machine
end

section
/-! PROOFS. Reads, writes and fetches, and the instructions that move bytes at I (20_memory.md R71 to R75, R88, 43_index_memory.md
R243 to R246). -/

namespace Sys2Proof.Machine

/-! ### Reads and single writes (20_memory.md R71 to R74) -/

/-- Addresses that reach the same location read the same (R71). -/
theorem memRead_of_mod_eq (s : State) {a b : Nat} (h : a % 4096 = b % 4096) : s.memRead a = s.memRead b :=
  congrArg (Memory.get s.cfg s.mem) h

theorem writeIgnored_iff {s : State} {a : Nat} : s.writeIgnored a = true ↔ StoreLost s.cfg a := by
  simp only [State.writeIgnored, inFont, Bool.and_eq_true, Bool.not_eq_true', decide_eq_true_eq]
  exact Iff.rfl

theorem writeIgnored_eq_false {s : State} {a : Nat} : s.writeIgnored a = false ↔ ¬StoreLost s.cfg a := by
  rw [← writeIgnored_iff, Bool.not_eq_true]

/-- Which stores are lost depends on the location alone (R71). -/
theorem storeLost_of_mod_eq {c : Config} {a b : Nat} (h : a % 4096 = b % 4096) : StoreLost c a ↔ StoreLost c b := by
  rw [StoreLost, StoreLost, h]

/-- Settles O10: the word fetched is made of two reads, and a read depends on the location alone. -/
theorem fetchCombinesTwoBytes : Obligations.FetchCombinesTwoBytes := fun s _ =>
  ⟨toNat_wordOfBytes _ _, fun a => memRead_of_mod_eq s (Nat.mod_mod a 4096).symm⟩

/-- Settles O11: by the law of a read after a write. -/
theorem writtenByteIsReadBack : Obligations.WrittenByteIsReadBack := by
  intro s a x hm
  have hread := State.memRead_memWrite hm a (x := x)
  refine ⟨fun hkept b hb => ?_, fun hlost b => ?_, fun b hb => ?_, memWrite_frame s a x⟩
  · rw [hread, if_pos ⟨by rwa [writeIgnored_iff], hb⟩]
  · rw [hread, if_neg fun h => h.1 (writeIgnored_iff.mpr hlost)]
  · rw [hread, if_neg fun h => hb h.2]

/-! ### Several bytes stored at I (43_index_memory.md R246) -/

theorem ea_zero_add (s : State) (k : Nat) : s.ea 0 + k = s.ea k := by
  simp [State.ea]

/-- Every byte after the store loop, said once: the stored byte where the loop reaches its location and the store is not lost,
the old byte elsewhere. -/
theorem storeBytes_byteAfterStore {s : State} (hm : Memory.wf s.cfg s.mem) {bs : List Byte} {n : Nat} {f : Nat → Byte}
    (hlen : bs.length = n) (hn : n ≤ memSize) (hbs : ∀ k (hk : k < bs.length), bs[k] = f k) (a : Nat) :
    ByteAfterStore n f s a ((s.storeBytes (s.ea 0) bs).memRead a) := by
  subst hlen
  refine ⟨fun k hk ha hkept => ?_, ?_⟩
  · have hw : s.writeIgnored (s.ea 0 + k) = false := by
      rwa [ea_zero_add, writeIgnored_eq_false, ← storeLost_of_mod_eq ha]
    rw [memRead_of_mod_eq _ (ha.trans (congrArg (· % 4096) (ea_zero_add s k).symm)),
      State.storeBytes_stored hm _ _ bs hn hk hw, hbs k hk]
  · rintro (hlost | haway)
    · exact State.storeBytes_ignored hm _ a bs (writeIgnored_iff.mpr hlost)
    · exact State.storeBytes_elsewhere hm _ a bs fun k hk => by rw [ea_zero_add]; exact haway k hk

/-- The same, as the stored bytes and the bytes elsewhere. -/
theorem storedAtIndex_of_byteAfterStore {n : Nat} {f : Nat → Byte} {s t : State}
    (h : ∀ a, ByteAfterStore n f s a (t.memRead a)) : StoredAtIndex n f s t :=
  ⟨fun k hk hkept => (h (s.ea k)).1 k hk rfl hkept, fun k _ hlost => (h (s.ea k)).2 (.inl hlost),
    fun a haway => (h a).2 (.inr haway)⟩

/-- The same, as the next fetch sees it (20_memory.md R88). -/
theorem fetchSeesStore_of_byteAfterStore {n : Nat} {f : Nat → Byte} {s t : State} (hpc : t.pc = s.pc)
    (h : ∀ a, ByteAfterStore n f s a (t.memRead a)) : FetchSeesStore n f s t :=
  ⟨hpc, _, _, toNat_wordOfBytes _ _, hpc ▸ h t.pc.toNat, hpc ▸ h (t.pc.toNat + 1)⟩

/-! ### FX33 -/

theorem getElem_decimalDigits (b : Byte) (k : Nat) (hk : k < (decimalDigits b).length) :
    (decimalDigits b)[k] = BitVec.ofNat 8 (b.toNat / 10 ^ (2 - k) % 10) := by
  have hb := b.isLt
  match k, hk with
  | 0, _ => exact congrArg (BitVec.ofNat 8) (Nat.mod_eq_of_lt (by omega)).symm
  | 1, _ => rfl
  | 2, _ => exact congrArg (fun d => BitVec.ofNat 8 (d % 10)) (Nat.div_one b.toNat).symm

theorem ldBVx_byteAfterStore (x : Reg) {s t : State} (hm : Memory.wf s.cfg s.mem) (h : exec (.ldBVx x) s = .next t) (a : Nat) :
    ByteAfterStore 3 (fun k => BitVec.ofNat 8 ((s.readV x).toNat / 10 ^ (2 - k) % 10)) s a (t.memRead a) := by
  cases h
  exact storeBytes_byteAfterStore (n := 3) hm rfl (by decide) (getElem_decimalDigits _) a

/-- Settles O28: the three digits are the bytes of one store at I. -/
theorem decimalDigitsAreStored : Obligations.DecimalDigitsAreStored := fun x s hm =>
  ⟨toNat_encodeRegByte_opcode 0xF#4 x 0x33#8, _, exec_ldBVx s x,
    storedAtIndex_of_byteAfterStore (ldBVx_byteAfterStore x hm (exec_ldBVx s x)), exec_frame (exec_ldBVx s x)⟩

/-! ### FX55 and FX65 -/

/-- V0 to VX are the registers numbered 0 to X. -/
theorem regsUpTo_eq_map_range : ∀ x : Reg, regsUpTo x = (List.range (x.val + 1)).map (Fin.ofNat 16) := by decide

theorem ldMemVx_byteAfterStore (x : Reg) {s t : State} (hm : Memory.wf s.cfg s.mem) (h : exec (.ldMemVx x) s = .next t)
    (a : Nat) : ByteAfterStore (x.val + 1) (fun k => s.readV (Fin.ofNat 16 k)) s a (t.memRead a) := by
  have hx := x.isLt
  cases h
  refine storeBytes_byteAfterStore hm ?_ (by simp only [memSize]; omega) (fun k hk => ?_) a
  · simp [regsUpTo_eq_map_range]
  · simp [regsUpTo_eq_map_range]

theorem toNat_iAfter (s : State) (x : Reg) : (s.iAfter x).toNat = (s.i.toNat + x.val + 1) % 65536 := by
  rw [State.iAfter, BitVec.toNat_add, BitVec.toNat_ofNat]
  omega

/-- Settles O29: the registers are the bytes of one store at I, and I moves past them. -/
theorem registersAreStored : Obligations.RegistersAreStored := fun x s hm =>
  ⟨toNat_encodeRegByte_opcode 0xF#4 x 0x55#8, _, exec_ldMemVx s x,
    storedAtIndex_of_byteAfterStore (ldMemVx_byteAfterStore x hm (exec_ldMemVx s x)), toNat_iAfter s x,
    exec_frame (exec_ldMemVx s x)⟩

/-- Settles O12: the next fetch reads two bytes as the store of FX55 or of FX33 left them. -/
theorem storedCodeIsFetched : Obligations.StoredCodeIsFetched := by
  refine fun x s hm => ⟨⟨_, exec_ldMemVx s x, ?_⟩, ⟨_, exec_ldBVx s x, ?_⟩⟩
  · exact fetchSeesStore_of_byteAfterStore (exec_frame (exec_ldMemVx s x) .programCounter (by simp [writeSet]))
      (ldMemVx_byteAfterStore x hm (exec_ldMemVx s x))
  · exact fetchSeesStore_of_byteAfterStore (exec_frame (exec_ldBVx s x) .programCounter (by simp [writeSet]))
      (ldBVx_byteAfterStore x hm (exec_ldBVx s x))

/-- What FX65 leaves in the registers: the bytes at I up to VX, and the old values above (R245). -/
theorem ldVxMem_readV {x : Reg} {s t : State} (h : exec (.ldVxMem x) s = .next t) (k : Reg) :
    t.readV k = if k ≤ x then s.memRead (s.i.toNat + k.val) else s.readV k := by
  cases h
  change (s.loadRegs (s.ea 0) (regsUpTo x)).readV k = _
  rw [State.readV_loadRegs, ea_zero_add, State.ea]
  simp only [mem_regsUpTo]

/-- Settles O30: by what the load loop leaves in each register. -/
theorem registersAreLoaded : Obligations.RegistersAreLoaded := by
  refine fun x s => ⟨toNat_encodeRegByte_opcode 0xF#4 x 0x65#8, _, exec_ldVxMem s x, fun k hk => ?_, fun k hk => ?_,
    toNat_iAfter s x, exec_frame (exec_ldVxMem s x)⟩
  · rw [ldVxMem_readV (exec_ldVxMem s x), if_pos hk]
  · rw [ldVxMem_readV (exec_ldVxMem s x), if_neg (Fin.not_le.mpr hk)]

/-- Settles O31: each register up to VX was stored at the address from which it is loaded. -/
theorem storeLoadRoundTrip : Obligations.StoreLoadRoundTrip := by
  intro x s t u hm hkept hstore hmem hi
  refine ⟨_, exec_ldVxMem u x, fun k hk => ?_, fun k hk => ?_⟩
  · have hstored := (ldMemVx_byteAfterStore x hm hstore (s.ea k.val)).1 k.val (Nat.lt_succ_of_le hk) rfl (hkept k hk)
    rw [ldVxMem_readV (exec_ldVxMem u x), if_pos hk, hmem, hi]
    exact hstored.trans (congrArg s.readV (Fin.ofNat_val_eq_self k))
  · rw [ldVxMem_readV (exec_ldVxMem u x), if_neg (Fin.not_le.mpr hk)]

end Sys2Proof.Machine
end

section
/-! PROOFS. The display instructions (44_display.md R270 to R276). -/

namespace Sys2Proof.Machine

/-! ### 00E0 -/

/-- Settles O32: the cleared display is the one published. -/
theorem clearBlanksAndPublishes : Obligations.ClearBlanksAndPublishes := fun s =>
  ⟨rfl, _, exec_cls s, Display.pixel_clear, publishFrame_offers (s.setDisp Display.clear), exec_frame (exec_cls s)⟩

/-! ### DXYN -/

@[simp] theorem length_sprite (s : State) (n : Nat) : (s.sprite n).length = n := by
  simp [State.sprite]

section Draw

variable {s t : State} {x y : Reg} {n : Nat}

/-- A covered pixel is inverted and every other one stays (R274). -/
theorem drw_pixel (hn : n < 16) (h : exec (.drw x y n) s = .next t) (r : Fin 32) (c : Fin 64) :
    (SpriteCovers s x y n r c → t.disp.pixel r c = !s.disp.pixel r c) ∧
    (¬SpriteCovers s x y n r c → t.disp.pixel r c = s.disp.pixel r c) := by
  obtain ⟨hhit, haway, -⟩ := Canvas.drawRows_spec ⟨s.disp, false⟩ (s.readV y).toNat (s.readV x).toNat (s.sprite n)
    (by rw [length_sprite]; omega)
  cases h
  rw [← spriteHit_iff_covers]
  exact ⟨hhit r c, haway r c⟩

/-- VF is 1 after a collision and 0 without one (R272). -/
theorem drw_readV_vf (hn : n < 16) (h : exec (.drw x y n) s = .next t) :
    ((∃ r c, SpriteCovers s x y n r c ∧ s.disp.pixel r c = true) → t.readV 15 = 1) ∧
    ((¬∃ r c, SpriteCovers s x y n r c ∧ s.disp.pixel r c = true) → t.readV 15 = 0) := by
  obtain ⟨-, -, hcollision⟩ := Canvas.drawRows_spec ⟨s.disp, false⟩ (s.readV y).toNat (s.readV x).toNat (s.sprite n)
    (by rw [length_sprite]; omega)
  simp only [spriteHit_iff_covers, Bool.false_eq_true, false_or] at hcollision
  have hvf : t.readV 15 = flag (s.canvasAfterDraw x y n).collision := by
    cases h
    exact State.readV_writeV_same _ vf _
  rw [← hcollision, hvf, Bool.not_eq_true]
  exact ⟨congrArg flag, congrArg flag⟩

end Draw

/-- Settles O33: by the law of the drawing loops, pixel by pixel. -/
theorem drawXorsTheSprite : Obligations.DrawXorsTheSprite := by
  intro x y n s hn
  have hword : (encode (.drw x y n)).toNat = 0xD000 + x.val * 256 + y.val * 16 + n := by
    rw [encode, toNat_encodeRegReg, BitVec.toNat_ofNat, BitVec.toNat_ofNat]
    omega
  have h := exec_drw s x y n
  obtain ⟨hcollided, hclear⟩ := drw_readV_vf hn h
  exact ⟨hword, _, h, fun r c => (drw_pixel hn h r c).1, fun r c => (drw_pixel hn h r c).2, hcollided, hclear,
    fun r hr => exec_readV_of_notMem h (by simpa [writtenRegs] using hr), publishFrame_offers _, exec_frame h⟩

/-- What a sprite covers depends on its place, on I and on memory alone. -/
theorem spriteCovers_congr {s u : State} {x y : Reg} (hmem : ∀ a, u.memRead a = s.memRead a) (hi : u.i = s.i)
    (hx : u.readV x = s.readV x) (hy : u.readV y = s.readV y) (n : Nat) (r : Fin 32) (c : Fin 64) :
    SpriteCovers u x y n r c ↔ SpriteCovers s x y n r c := by
  simp only [SpriteCovers, hmem, hi, hx, hy]

/-- Settles O34: both draws cover the same pixels, so each is inverted twice, and the second clears those that the first set. -/
theorem drawTwiceRestores : Obligations.DrawTwiceRestores := by
  intro x y n s t u hn hfirst hdisp hmem hi hx hy
  have hsecond := exec_drw u x y n
  have hcovers := spriteCovers_congr hmem hi hx hy n
  have hset (r c) : (SpriteCovers u x y n r c ∧ u.disp.pixel r c = true) ↔
      s.disp.pixel r c = false ∧ t.disp.pixel r c = true := by
    obtain ⟨hhit, haway⟩ := drw_pixel hn hfirst r c
    rw [hcovers, hdisp]
    by_cases hc : SpriteCovers s x y n r c
    · simp [hc, hhit hc]
    · simp [hc, haway hc]
  refine ⟨_, hsecond, fun r c => ?_, ?_⟩
  · obtain ⟨hhit, haway⟩ := drw_pixel hn hfirst r c
    obtain ⟨hhit', haway'⟩ := drw_pixel hn hsecond r c
    rw [hcovers, hdisp] at hhit' haway'
    by_cases hc : SpriteCovers s x y n r c
    · rw [hhit' hc, hhit hc, Bool.not_not]
    · rw [haway' hc, haway hc]
  · obtain ⟨hcollided, hclear⟩ := drw_readV_vf hn hsecond
    simp only [hset] at hcollided hclear
    refine ⟨fun hone => by_contra fun hnone => ?_, hcollided⟩
    exact absurd (hone.symm.trans (hclear hnone)) (by decide)

end Sys2Proof.Machine
end

section
/-! PROOFS. The cycle and the step: what they can do, where they are fixed, and that they always answer (40_cycle.md R140 to R145,
R148, 70_reset_and_hazards.md R397). -/

namespace Sys2Proof.Machine

/-! ### The cycle, case by case -/

section Cycle

variable {s t : State}

theorem idle_eq_true : s.idle = true ↔ s.running = false ∨ s.blocked = true := by
  simp [State.idle]

theorem idle_eq_false : s.idle = false ↔ s.running = true ∧ s.blocked = false := by
  simp [State.idle]

theorem cycle_of_idle (h : s.idle = true) : cycle s = .next s := by
  simp [cycle, h]

theorem cycle_of_decodeWord {i : Instr} (hi : s.idle = false) (h : decodeWord (s.fetchWord s.pc) = some i) :
    cycle s = exec i s.advance := by
  simp [cycle, hi, executeWord, h]

theorem cycle_of_unrecognized (hi : s.idle = false) (h : decodeWord (s.fetchWord s.pc) = none) :
    cycle s = .next (s.advance.raiseFatal .unrecognizedOpcode s.pc (s.fetchWord s.pc)) := by
  simp [cycle, hi, executeWord, h]

/-- Everything a cycle can do (R141, R143 to R145). -/
theorem cycle_cases (h : cycle s = .next t) :
    (s.idle = true ∧ t = s) ∨
    (s.idle = false ∧ decodeWord (s.fetchWord s.pc) = none ∧
      t = s.advance.raiseFatal .unrecognizedOpcode s.pc (s.fetchWord s.pc)) ∨
    (s.idle = false ∧ ∃ i, decodeWord (s.fetchWord s.pc) = some i ∧ exec i s.advance = .next t) := by
  cases hi : s.idle with
  | true => rw [cycle_of_idle hi] at h; cases h; exact .inl ⟨rfl, rfl⟩
  | false =>
    cases hd : decodeWord (s.fetchWord s.pc) with
    | none => rw [cycle_of_unrecognized hi hd] at h; cases h; exact .inr (.inl ⟨rfl, rfl, rfl⟩)
    | some i => rw [cycle_of_decodeWord hi hd] at h; exact .inr (.inr ⟨rfl, i, rfl, h⟩)

end Cycle

/-! ### The step -/

/-- A step performs the transition that moves next, from the state in which it is pending no more. -/
theorem step_of_nextTransaction {s : State} {tr : Transaction} (h : s.nextTransaction = tr) :
    step s = perform tr s.afterChoice := by
  rw [step, h]

theorem cycle_answers_next (s : State) : ∃ t, cycle s = .next t := by
  cases hi : s.idle with
  | true => exact ⟨s, cycle_of_idle hi⟩
  | false =>
    cases hd : decodeWord (s.fetchWord s.pc) with
    | none => exact ⟨_, cycle_of_unrecognized hi hd⟩
    | some i =>
      rw [cycle_of_decodeWord hi hd]
      exact exec_answers_next i s.advance

theorem perform_answers_next (tr : Transaction) (s : State) : ∃ t, perform tr s = .next t := by
  cases tr with
  | cycle => exact cycle_answers_next s
  | _ => exact ⟨_, rfl⟩

/-- Settles O47: each instruction and each transition answers, and a step is one transition. -/
theorem everyStepAnswersNext : Obligations.EveryStepAnswersNext :=
  ⟨fun s => perform_answers_next s.nextTransaction s.afterChoice, exec_answers_next⟩

/-- Settles O7: the two bytes are the word fetched, and the schedule takes no part in the fetch. -/
theorem stepRunsTheDecodedInstruction : Obligations.StepRunsTheDecodedInstruction := by
  intro s i hnext hrun hblocked _ hdecode
  obtain ⟨-, hword⟩ := decode_cons_cons_eq_instr_iff.mp hdecode
  have hidle : s.afterChoice.idle = false := idle_eq_false.mpr ⟨hrun, hblocked⟩
  refine ⟨?_, afterChoice_frame s⟩
  rw [step_of_nextTransaction hnext]
  exact cycle_of_decodeWord hidle hword

/-- Settles O9: the cycle raises the halt from the state with PC advanced. -/
theorem unrecognizedWordHalts : Obligations.UnrecognizedWordHalts := by
  intro s hnext hrun hblocked hword
  have hidle : s.afterChoice.idle = false := idle_eq_false.mpr ⟨hrun, hblocked⟩
  have hadvance : UnchangedBut [.inputs, .programCounter] s s.afterChoice.advance :=
    (afterChoice_frame s).comp (setPc_frame _ _) (by simp)
  refine ⟨_, (step_of_nextTransaction hnext).trans (cycle_of_unrecognized hidle hword), rfl, rfl, rfl, rfl, ?_⟩
  exact hadvance.comp (raiseFatal_frame _ _ _ _) (by simp)

/-! ### Where the cycle is fixed -/

/-- A cycle that changes nothing makes a step that changes nothing but the schedule, and nothing at all where the ENGINE is to
move whenever nothing is pending (log 1). -/
theorem step_of_cycle_fixed {s : State} (hnext : s.nextTransaction = .cycle) (hfixed : cycle s = .next s) :
    step s = .next s.afterChoice ∧ (s.env.inputs = [] → s.env.unscheduled = .engine → step s = .next s) := by
  have hstep : step s = .next s.afterChoice := by
    rw [step_of_nextTransaction hnext, afterChoice_eq_resched]
    exact perform_resched (tr := .cycle) hfixed _ _ _
  exact ⟨hstep, fun hinputs hengine => by rw [hstep, afterChoice_of_engine s hinputs hengine]⟩

/-- Settles O8: an idle cycle is fixed. -/
theorem idleCycleDoesNothing : Obligations.IdleCycleDoesNothing := by
  intro s hnext hidle
  obtain ⟨hstep, hengine⟩ := step_of_cycle_fixed hnext (cycle_of_idle (idle_eq_true.mpr hidle))
  exact ⟨⟨_, hstep, rfl, afterChoice_frame s⟩, hengine⟩

/-- The fetch advance, taken back. -/
theorem setPc_advance (s : State) {w : Word} (h : w = s.pc) : s.advance.setPc w = s := by
  subst h
  rfl

/-- SPIN: the word at PC is 1NNN with NNN = PC. -/
theorem cycle_of_spin {s : State} (h : s.Spin) : cycle s = .next s := by
  obtain ⟨hrun, hblocked, hpc, hword⟩ := h
  have htarget : target (s.pc.setWidth 12) = s.pc := by
    apply BitVec.eq_of_toNat_eq
    rw [toNat_target, BitVec.toNat_setWidth]
    omega
  have hjp : s.fetchWord s.pc = encode (.jp (s.pc.setWidth 12)) := by
    apply BitVec.eq_of_toNat_eq
    rw [hword, encode, toNat_encodeAddr, BitVec.toNat_add, BitVec.toNat_setWidth, BitVec.toNat_ofNat, BitVec.toNat_ofNat]
    omega
  rw [cycle_of_decodeWord (idle_eq_false.mpr ⟨hrun, hblocked⟩) (hjp ▸ decodeWord_encode rfl), exec_jp,
    setPc_advance s htarget]

/-- KEYWAIT: the word at PC is an FX0A that finds no key. -/
theorem cycle_of_waitsPress {s : State} (h : s.WaitsPress) : cycle s = .next s := by
  obtain ⟨hrun, hblocked, ⟨x, hword⟩, hkeys⟩ := h
  have hk : s.fetchWord s.pc = encode (.ldVxK x) := by
    apply BitVec.eq_of_toNat_eq
    rw [hword]
    exact (toNat_encodeRegByte_opcode 0xF#4 x 0x0A#8).symm
  have hnone : s.advance.leastKey = none := State.leastKey_eq_none.mpr hkeys
  rw [cycle_of_decodeWord (idle_eq_false.mpr ⟨hrun, hblocked⟩) (hk ▸ decodeWord_encode rfl), exec_ldVxK_of_none hnone,
    State.advance_pc, setPc_advance s (BitVec.add_sub_cancel _ _)]

/-- Settles O53: in each of the four conditions the cycle is fixed. -/
theorem quiescentStatesStay : Obligations.QuiescentStatesStay := by
  intro s hnext hquiescent
  have hfixed : cycle s = .next s := by
    obtain h | h | ⟨-, h⟩ | h := hquiescent
    · exact cycle_of_idle (idle_eq_true.mpr (.inl h))
    · exact cycle_of_spin h
    · exact cycle_of_idle (idle_eq_true.mpr (.inr h))
    · exact cycle_of_waitsPress h
  obtain ⟨hstep, hengine⟩ := step_of_cycle_fixed hnext hfixed
  exact ⟨⟨_, hstep, afterChoice_frame s⟩, hengine⟩

end Sys2Proof.Machine
end

section
/-! PROOFS. Keys, the TIMER, the HOST and the channels (45_keys_timers.md R303, 60_exceptions.md R346 to R361,
70_reset_and_hazards.md R390 to R393, 10_state.md R48). -/

namespace Sys2Proof.Machine

/-! ### FX0A -/

theorem beginWait_of_none {s : State} (h : s.cfg.keyWait = .none) (k : Key) : s.beginWait k = s := by
  simp [State.beginWait, h]

theorem beginWait_of_waiting {s : State} (h : s.cfg.keyWait ≠ .none) (k : Key) :
    s.beginWait k = { s with blocked := true, waitKey := k } := by
  cases hw : s.cfg.keyWait with
  | none => exact absurd hw h
  | untilRelease | untilAnyChange => simp [State.beginWait, hw]

/-- Settles O38: FX0A reports the least pressed key, or goes back where there is none. -/
theorem keyWaitReportsOrRetries : Obligations.KeyWaitReportsOrRetries := by
  refine fun x s => ⟨toNat_encodeRegByte_opcode 0xF#4 x 0x0A#8, fun k hk hleast => ?_, fun hnone => ?_⟩
  · have hexec := exec_ldVxK_of_some (x := x) (State.leastKey_eq_some hk hleast)
    refine ⟨_, hexec, ?_, fun r hr => ?_, fun hw => ?_, fun hw => ?_, (writeV_frame s x _).comp (beginWait_frame _ k) (by simp)⟩
    · rw [State.readV_congr (State.beginWait_v _ k), State.readV_writeV_same, BitVec.toNat_ofNat]
      omega
    · exact exec_readV_of_notMem hexec (by simpa [writtenRegs] using hr)
    · rw [beginWait_of_none (s := s.writeV x _) hw]
      exact ⟨rfl, rfl⟩
    · rw [beginWait_of_waiting (s := s.writeV x _) hw]
      exact ⟨rfl, rfl⟩
  · exact ⟨_, exec_ldVxK_of_none (State.leastKey_eq_none.mpr hnone), BitVec.sub_add_cancel _ _, setPc_frame s _⟩

/-! ### TICK and KEY -/

theorem toNat_countDown (b : Byte) : (countDown b).toNat = b.toNat - 1 := by
  by_cases h : b = 0
  · simp [countDown, h]
  · have hpos : b.toNat ≠ 0 := fun h' => h (BitVec.eq_of_toNat_eq h')
    have hlt := b.isLt
    have hone : (1 : Byte).toNat = 1 := rfl
    rw [countDown, if_neg h, BitVec.toNat_sub, hone]
    omega

/-- The beep of a TICK is on exactly when the sound timer is not 0 (R347). -/
theorem bne_zero_eq_decide (b : Byte) : (b != 0) = decide (b.toNat ≠ 0) := by
  rw [Bool.eq_iff_iff, bne_iff_ne, decide_eq_true_iff, ← BitVec.toNat_ne_iff_ne]
  rfl

/-- Settles O39: both timers count down by one, and the beep is on while ST is not 0. -/
theorem tickCountsDownAndBeeps : Obligations.TickCountsDownAndBeeps := fun s hnext =>
  ⟨_, step_of_nextTransaction hnext, toNat_countDown s.dt, toNat_countDown s.st,
    congrArg (fun on => s.env.trace ++ [.beep on]) (bne_zero_eq_decide s.st), rfl,
    (afterChoice_frame s).comp (tick_frame _) (by simp)⟩

theorem endsWait_iff {s : State} {k : Key} {p old : Bool} :
    s.endsWait k p old = true ↔ (s.cfg.keyWait = .untilRelease ∧ k = s.waitKey ∧ p = false) ∨
      (s.cfg.keyWait = .untilAnyChange ∧ old ≠ p) := by
  cases hw : s.cfg.keyWait <;> simp [State.endsWait, hw]

/-- Settles O40: the flag is written, then the wait test is made with the flag's old value. -/
theorem keyEventSetsFlagAndEndsWait : Obligations.KeyEventSetsFlagAndEndsWait := by
  intro s k p hnext
  refine ⟨_, step_of_nextTransaction hnext, ?_, fun j hj => ?_, rfl, ?_,
    (afterChoice_frame s).comp (keyEvent_frame _ k p) (by simp)⟩
  · rw [State.key_keyEvent, if_pos rfl]
  · rw [State.key_keyEvent, if_neg hj]
    rfl
  · change (s.blocked && !s.endsWait k p (s.key k)) = false ↔ _
    rw [Bool.and_eq_false_iff, Bool.not_eq_false', endsWait_iff]

/-! ### The reset column (10_state.md R48) -/

section Reset

variable (c : Config) (e : Env)

theorem readV_initial (r : Reg) : (State.initial c e).readV r = 0 := by
  simp [State.readV, State.initial]

theorem key_initial (k : Key) : (State.initial c e).key k = false := by
  simp [State.key, State.initial]

theorem pixel_initial (r : Fin 32) (cl : Fin 64) : (State.initial c e).disp.pixel r cl = false :=
  Display.pixel_clear r cl

/-- The font range holds FONT_DATA after a reset. -/
theorem resetByte_font (k : Fin 80) : resetByte c (0x050 + k.val) = c.fontData[k] := by
  have hk := k.isLt
  have hin : inFont (0x050 + k.val) = true := by
    simp only [inFont, Bool.and_eq_true, decide_eq_true_eq]
    omega
  simp [resetByte, hin, fontBase]

/-- Outside the font range memory is zero after a reset. -/
theorem resetByte_of_not_font {a : Nat} (h : a < 0x050 ∨ 0x09F < a) : resetByte c a = 0 := by
  have hout : inFont a = false := by
    simp only [inFont, Bool.and_eq_false_iff, decide_eq_false_iff_not]
    omega
  simp [resetByte, hout]

theorem memRead_initial {a : Nat} (ha : a < 4096) : (State.initial c e).memRead a = resetByte c a :=
  congrArg (resetByte c) (Nat.mod_eq_of_lt ha)

theorem memRead_initial_font (k : Fin 80) : (State.initial c e).memRead (0x050 + k.val) = c.fontData[k] := by
  rw [memRead_initial c e (by omega), resetByte_font]

theorem memRead_initial_of_not_font {a : Nat} (ha : a < 4096) (h : a < 0x050 ∨ 0x09F < a) :
    (State.initial c e).memRead a = 0 := by
  rw [memRead_initial c e ha, resetByte_of_not_font c h]

end Reset

/-- Settles O44: the reset state is the reset column at the default parameters. -/
theorem resetStateIsTheTable : Obligations.ResetStateIsTheTable :=
  ⟨readV_initial _ _, rfl, rfl, rfl, pixel_initial _ _, key_initial _ _, rfl, rfl, rfl, rfl, rfl, rfl, rfl,
    memRead_initial_font _ _, fun _ => memRead_initial_of_not_font _ _, rfl, rfl, rfl, rfl, rfl⟩

/-- Settles O43: INIT sets the reset column, and keeps the parameters and the surroundings. -/
theorem initResetsEverything : Obligations.InitResetsEverything := by
  intro s hnext
  refine ⟨_, step_of_nextTransaction hnext, readV_initial _ _, rfl, rfl, rfl, pixel_initial _ _, key_initial _ _, rfl, rfl, rfl,
    rfl, rfl, rfl, rfl, memRead_initial_font _ _, fun _ => memRead_initial_of_not_font _ _, rfl, ?_⟩
  simp [Part.same, State.powerOn, State.initial]

/-! ### LOAD -/

section Load

variable {s : State} {rom : List Byte}

theorem load_of_fits (h : rom.length ≤ 3584) : s.load rom = (s.loaded rom).reply .loadOk := if_pos h

theorem load_of_oversized (h : 3584 < rom.length) : s.load rom = s.reply .loadTooLarge := if_neg (Nat.not_le.mpr h)

/-- Everything a LOAD can do (R392, R393). -/
theorem perform_load_cases {t : State} (h : perform (.load rom) s = .next t) :
    (rom.length ≤ 3584 ∧ t = (s.loaded rom).reply .loadOk) ∨ (3584 < rom.length ∧ t = s.reply .loadTooLarge) := by
  cases h
  by_cases hfits : rom.length ≤ 3584
  · exact .inl ⟨hfits, load_of_fits hfits⟩
  · exact .inr ⟨Nat.lt_of_not_le hfits, load_of_oversized (Nat.lt_of_not_le hfits)⟩

/-- The ROM stands verbatim at 0x200 (R392). -/
theorem memRead_loaded_rom (hfits : rom.length ≤ 3584) {j : Nat} (hj : j < rom.length) :
    (s.loaded rom).memRead (0x200 + j) = rom[j] := by
  have hloc : loc (0x200 + j) = 0x200 + j := Nat.mod_eq_of_lt (by simp only [memSize]; omega)
  have hget := get_romCells (c := s.cfg) 0x200 (0x200 + j) rom
  rw [dif_pos ⟨by omega, by omega⟩] at hget
  change Memory.get s.cfg (romCells s.cfg 0x200 rom) (loc (0x200 + j)) = _
  rw [hloc, hget]
  simp

/-- Around the ROM memory is as after a reset (R392, D21). -/
theorem memRead_loaded_elsewhere {a : Nat} (ha : a < 4096) (hrom : a < 0x200 ∨ 0x200 + rom.length ≤ a) :
    (s.loaded rom).memRead a = resetByte s.cfg a := by
  have hloc : loc a = a := Nat.mod_eq_of_lt ha
  change Memory.get s.cfg (romCells s.cfg 0x200 rom) (loc a) = _
  rw [hloc, get_romCells, dif_neg (by omega)]

end Load

/-- Settles O41: the reset column but for the ROM, `running` and `delay`. -/
theorem loadStartsTheProgram : Obligations.LoadStartsTheProgram := by
  intro s rom hnext hfits
  have hstep := step_of_nextTransaction hnext
  rw [perform, load_of_fits hfits] at hstep
  refine ⟨_, hstep, readV_initial s.cfg s.env, rfl, rfl, rfl, pixel_initial s.cfg s.env, key_initial s.cfg s.env, rfl, rfl, rfl,
    rfl, rfl, rfl, fun j hj => memRead_loaded_rom (s := s) hfits hj, fun k => ?_, fun a ha hout => ?_, rfl, rfl, ?_⟩
  · exact (memRead_loaded_elsewhere (s := s) (by omega) (.inl (by omega))).trans (resetByte_font s.cfg k)
  · exact (memRead_loaded_elsewhere (s := s) ha (by omega)).trans (resetByte_of_not_font s.cfg (by omega))
  · simp [Part.same, State.loaded, State.initial]

/-- Settles O42: the size is tested before anything changes. -/
theorem oversizedLoadIsRejected : Obligations.OversizedLoadIsRejected := by
  intro s rom hnext hbig
  have hstep := step_of_nextTransaction hnext
  rw [perform, load_of_oversized hbig] at hstep
  exact ⟨_, hstep, rfl, rfl, (afterChoice_frame s).comp (reply_frame _ _) (by simp)⟩

/-- The reset state with a LOAD of `rom` and a CYCLE to come (70_reset_and_hazards.md section 2). -/
def bootState (rom : List Byte) : State := { State.reset with env := { Env.empty with inputs := [.load rom, .cycle] } }

/-- Settles O56: the bytes that LOAD put at 0x200 are those that the CYCLE fetches. -/
theorem bootFetchesTheRom : Obligations.BootFetchesTheRom := by
  intro hi lo rest hlen
  have hfits : (hi :: lo :: rest).length ≤ 3584 := hlen
  have hstep := step_of_nextTransaction (s := bootState (hi :: lo :: rest)) (tr := .load (hi :: lo :: rest)) rfl
  rw [perform, load_of_fits hfits] at hstep
  refine ⟨_, hstep, rfl, rfl, (toNat_wordOfBytes _ _).trans ?_⟩
  have hhigh := memRead_loaded_rom (s := (bootState (hi :: lo :: rest)).afterChoice) hfits (j := 0) (by simp)
  have hlow := memRead_loaded_rom (s := (bootState (hi :: lo :: rest)).afterChoice) hfits (j := 1) (by simp)
  exact congrArg₂ (fun a b : Byte => 256 * a.toNat + b.toNat) hhigh hlow

/-! ### SPEED, STATUS and the consumers -/

/-- Settles O45: the clamped delay is the spec's formula, and the answer is the five status registers. -/
theorem speedClampsAndStatusReports : Obligations.SpeedClampsAndStatusReports := by
  refine ⟨fun s delta hnext => ?_, fun s hnext => ?_⟩
  · exact ⟨_, step_of_nextTransaction hnext, State.clampedDelay_cast s delta, rfl,
      (afterChoice_frame s).comp (speed_frame _ delta) (by simp)⟩
  · exact ⟨_, step_of_nextTransaction hnext, rfl, rfl, (afterChoice_frame s).comp (reply_frame _ _) (by simp)⟩

/-- Settles O46: by what offering an event and taking one do to a channel. -/
theorem channelsQueueInOrder : Obligations.ChannelsQueueInOrder := by
  refine fun s => ⟨fun hnext => ?_, fun hnext => ?_, fun hnext => ?_⟩
  · have hon : decide (0 < s.st.toNat) = (s.st != 0) := by
      rw [bne_zero_eq_decide]
      exact decide_eq_decide.mpr Nat.pos_iff_ne_zero
    rw [hon]
    exact ⟨_, step_of_nextTransaction hnext,
      emitBeep_offers { s.afterChoice with dt := countDown s.dt, st := countDown s.st } (s.st != 0)⟩
  · exact ⟨_, step_of_nextTransaction hnext, Channel.take_append s.env.frames, Channel.take_pending s.env.frames,
      (afterChoice_frame s).comp (takeFrame_frame _) (by simp)⟩
  · exact ⟨_, step_of_nextTransaction hnext, Channel.take_append s.env.beeps, Channel.take_pending s.env.beeps,
      (afterChoice_frame s).comp (takeBeep_frame _) (by simp)⟩

end Sys2Proof.Machine
end

section
/-! PROOFS. What no transition of any agent changes or takes back, and which offer frames (10_state.md R32, R40, 20_memory.md R81,
44_display.md R276, 60_exceptions.md R331, R350). -/

namespace Sys2Proof.Machine

/-! ### The parts an agent may write -/

/-- The parts that some instruction or the fatal halt writes. -/
def engineParts : List Part :=
  [.registers, .index, .programCounter, .memory, .stack, .display, .delayTimer, .soundTimer, .running, .blocked, .waitKey,
   .faultRecord, .random, .trace, .frames]

theorem writeSet_subset_engineParts (i : Instr) : writeSet i ⊆ engineParts := by
  cases i <;> simp [writeSet, engineParts]

theorem exec_engine_frame {i : Instr} {s t : State} (h : exec i s = .next t) : UnchangedBut engineParts s t :=
  (exec_frame h).mono (writeSet_subset_engineParts i)

theorem cycle_engine_frame {s t : State} (h : cycle s = .next t) : UnchangedBut engineParts s t := by
  have hadvance : UnchangedBut [.programCounter] s s.advance := setPc_frame s _
  obtain ⟨-, rfl⟩ | ⟨-, -, rfl⟩ | ⟨-, i, -, hexec⟩ := cycle_cases h
  · exact UnchangedBut.refl _ _
  · exact hadvance.comp (raiseFatal_frame _ _ _ _) (by simp [engineParts])
  · exact hadvance.comp (exec_engine_frame hexec) (by simp [engineParts])

/-- The parts that the TIMER, the consumers, or the HOST other than by LOAD and INIT, write. -/
def surroundingsParts : List Part :=
  [.keys, .delayTimer, .soundTimer, .blocked, .pacingDelay, .trace, .frames, .beeps, .replies]

theorem perform_surroundings_frame {tr : Transaction} {s t : State} (hcycle : tr ≠ .cycle) (hinit : tr ≠ .init)
    (hload : ∀ rom, tr ≠ .load rom) (h : perform tr s = .next t) : UnchangedBut surroundingsParts s t := by
  cases tr with
  | cycle => exact absurd rfl hcycle
  | init => exact absurd rfl hinit
  | load rom => exact absurd rfl (hload rom)
  | tick => cases h; exact (tick_frame s).mono (by simp [surroundingsParts])
  | key k p => cases h; exact (keyEvent_frame s k p).mono (by simp [surroundingsParts])
  | speed delta => cases h; exact (speed_frame s delta).mono (by simp [surroundingsParts])
  | status => cases h; exact (reply_frame s _).mono (by simp [surroundingsParts])
  | takeFrame => cases h; exact (takeFrame_frame s).mono (by simp [surroundingsParts])
  | takeBeep => cases h; exact (takeBeep_frame s).mono (by simp [surroundingsParts])

/-- Settles O50: none of the parts named is among those that the surroundings write. -/
theorem onlyEngineTouchesProgramState : Obligations.OnlyEngineTouchesProgramState := by
  intro s t hstep hcycle hinit hload p hp
  have hframe : UnchangedBut (.inputs :: surroundingsParts) s t :=
    (afterChoice_frame s).comp (perform_surroundings_frame hcycle hinit hload hstep) (by simp)
  have hapart : ∀ q ∈ [Part.registers, .index, .programCounter, .memory, .stack, .display, .running, .waitKey, .faultRecord,
      .random], q ∉ Part.inputs :: surroundingsParts := by decide
  exact hframe p (hapart p hp)

/-! ### The parameters -/

theorem perform_cfg {tr : Transaction} {s t : State} (h : perform tr s = .next t) : t.cfg = s.cfg := by
  cases tr with
  | cycle => exact cycle_engine_frame h .parameters (by decide)
  | load rom => obtain ⟨-, rfl⟩ | ⟨-, rfl⟩ := perform_load_cases h <;> rfl
  | _ => cases h; rfl

/-- Settles O51: no transition writes the parameters, and choosing one does not either. -/
theorem parametersNeverChange : Obligations.ParametersNeverChange := fun s _ h =>
  perform_cfg (s := s.afterChoice) h

/-! ### Everything an instruction can do to the outputs -/

/-- An instruction offers nothing, or it draws and offers the display it leaves, or it halts and offers the FATAL event. -/
theorem exec_outputs_cases {i : Instr} {s t : State} (h : exec i s = .next t) :
    (draws i = false ∧ t.env.trace = s.env.trace ∧ t.env.frames = s.env.frames) ∨
    (draws i = true ∧ t.env.trace = s.env.trace ++ [.frame t.disp] ∧
      t.env.frames = s.env.frames.offer s.cfg.frameCap s.nextLoss t.disp) ∨
    (draws i = false ∧ t.env.frames = s.env.frames ∧ ∃ cause a w, t.env.trace = s.env.trace ++ [.fatal cause a w]) := by
  cases i with
  | cls | drw => cases h; exact .inr (.inl ⟨rfl, rfl, rfl⟩)
  | ret =>
    obtain ⟨-, rfl⟩ | ⟨w, rest, -, rfl⟩ := exec_ret_cases h
    · exact .inr (.inr ⟨rfl, rfl, _, _, _, rfl⟩)
    · exact .inl ⟨rfl, rfl, rfl⟩
  | call nnn =>
    obtain ⟨-, rfl⟩ | ⟨-, rfl⟩ := exec_call_cases h
    · exact .inr (.inr ⟨rfl, rfl, _, _, _, rfl⟩)
    · exact .inl ⟨rfl, rfl, rfl⟩
  | _ => exact .inl ⟨rfl, exec_frame h .trace (by simp [writeSet]), exec_frame h .frames (by simp [writeSet])⟩

/-- The transactions of the TIMER and the HOST append no frame to the trace. -/
theorem perform_framesOf_trace {tr : Transaction} {s t : State} (htr : tr ≠ .cycle) (h : perform tr s = .next t) :
    framesOf t.env.trace = framesOf s.env.trace := by
  cases tr with
  | cycle => exact absurd rfl htr
  | tick => cases h; simp
  | load rom => obtain ⟨-, rfl⟩ | ⟨-, rfl⟩ := perform_load_cases h <;> rfl
  | key | init | speed | status | takeFrame | takeBeep => cases h; rfl

/-- Settles O35: by what each instruction and each transaction appends to the trace. -/
theorem onlyDrawingOffersFrames : Obligations.OnlyDrawingOffersFrames := by
  refine ⟨fun i s t h => ?_, fun tr s t => perform_framesOf_trace⟩
  obtain ⟨hd, htrace, -⟩ | ⟨hd, htrace, -⟩ | ⟨hd, -, _, _, _, htrace⟩ := exec_outputs_cases h <;> simp [hd, htrace]

/-! ### Output trace and delivered events -/

theorem exec_outputs_grow {i : Instr} {s t : State} (h : exec i s = .next t) :
    s.env.trace <+: t.env.trace ∧ t.env.frames.delivered = s.env.frames.delivered := by
  obtain ⟨-, htrace, hframes⟩ | ⟨-, htrace, hframes⟩ | ⟨-, hframes, _, _, _, htrace⟩ := exec_outputs_cases h
  · rw [htrace, hframes]
    exact ⟨List.prefix_refl _, rfl⟩
  · rw [htrace, hframes]
    exact ⟨List.prefix_append _ _, (Channel.offer_cases _ _ _ _).1⟩
  · rw [htrace, hframes]
    exact ⟨List.prefix_append _ _, rfl⟩

theorem cycle_outputs_grow {s t : State} (h : cycle s = .next t) :
    s.env.trace <+: t.env.trace ∧ t.env.frames.delivered = s.env.frames.delivered := by
  obtain ⟨-, rfl⟩ | ⟨-, -, rfl⟩ | ⟨-, i, -, hexec⟩ := cycle_cases h
  · exact ⟨List.prefix_refl _, rfl⟩
  · exact ⟨List.prefix_append _ _, rfl⟩
  · exact exec_outputs_grow (s := s.advance) hexec

theorem perform_outputs_grow {tr : Transaction} {s t : State} (h : perform tr s = .next t) :
    s.env.trace <+: t.env.trace ∧ s.env.frames.delivered <+: t.env.frames.delivered ∧
      s.env.beeps.delivered <+: t.env.beeps.delivered := by
  cases tr with
  | cycle =>
    obtain ⟨htrace, hframes⟩ := cycle_outputs_grow h
    have hbeeps : t.env.beeps = s.env.beeps := cycle_engine_frame h .beeps (by decide)
    rw [hframes, hbeeps]
    exact ⟨htrace, List.prefix_refl _, List.prefix_refl _⟩
  | tick =>
    cases h
    refine ⟨List.prefix_append _ _, List.prefix_refl _, ?_⟩
    rw [State.tick_env_beeps, (Channel.offer_cases _ _ _ _).1]
  | takeFrame => cases h; exact ⟨List.prefix_refl _, Channel.delivered_prefix_take _, List.prefix_refl _⟩
  | takeBeep => cases h; exact ⟨List.prefix_refl _, List.prefix_refl _, Channel.delivered_prefix_take _⟩
  | load rom =>
    obtain ⟨-, rfl⟩ | ⟨-, rfl⟩ := perform_load_cases h <;>
      exact ⟨List.prefix_refl _, List.prefix_refl _, List.prefix_refl _⟩
  | key | init | speed | status => cases h; exact ⟨List.prefix_refl _, List.prefix_refl _, List.prefix_refl _⟩

/-- Settles O52: every transition appends to the trace, or moves an event from the undelivered to the delivered ones. -/
theorem outputsAreNeverRetracted : Obligations.OutputsAreNeverRetracted := fun s _ h =>
  perform_outputs_grow (s := s.afterChoice) h

/-! ### `running` -/

/-- An instruction keeps `running`, or it takes the fatal halt at its own address, with its own word, and does nothing else. -/
theorem exec_running_cases {i : Instr} {s t : State} (h : exec i s = .next t) :
    t.running = s.running ∨ ∃ cause, cause ≠ .none ∧ t = s.raiseFatal cause s.fetchedAt (encode i) := by
  cases i with
  | ret =>
    obtain ⟨-, rfl⟩ | ⟨w, rest, -, rfl⟩ := exec_ret_cases h
    · exact .inr ⟨_, Cause.noConfusion, rfl⟩
    · exact .inl rfl
  | call nnn =>
    obtain ⟨-, rfl⟩ | ⟨-, rfl⟩ := exec_call_cases h
    · exact .inr ⟨_, Cause.noConfusion, rfl⟩
    · exact .inl rfl
  | _ => exact .inl (exec_frame h .running (by simp [writeSet]))

/-- A cycle keeps `running`, or it takes the fatal halt on the word it fetched (60_exceptions.md R331). -/
theorem cycle_running_cases {s t : State} (h : cycle s = .next t) :
    t.running = s.running ∨
    (s.blocked = false ∧ ∃ cause, cause ≠ .none ∧ t = s.advance.raiseFatal cause s.pc (s.fetchWord s.pc)) := by
  obtain ⟨-, rfl⟩ | ⟨hidle, -, rfl⟩ | ⟨hidle, i, hdecode, hexec⟩ := cycle_cases h
  · exact .inl rfl
  · exact .inr ⟨(idle_eq_false.mp hidle).2, _, Cause.noConfusion, rfl⟩
  · obtain hsame | ⟨cause, hcause, rfl⟩ := exec_running_cases hexec
    · exact .inl hsame
    · have hat : s.advance.fetchedAt = s.pc := BitVec.add_sub_cancel _ _
      rw [(encode_of_decodeWord hdecode).1, hat]
      exact .inr ⟨(idle_eq_false.mp hidle).2, cause, hcause, rfl⟩

/-- Settles O49: by the transition that moved. -/
theorem runningChangesOnlyAsNamed : Obligations.RunningChangesOnlyAsNamed := by
  intro s t hstep hchanged
  cases hnext : s.nextTransaction with
  | cycle =>
    rw [step_of_nextTransaction hnext] at hstep
    obtain hsame | ⟨hblocked, cause, hcause, rfl⟩ := cycle_running_cases hstep
    · exact absurd hsame hchanged
    · exact .inr (.inr ⟨rfl, rfl, hblocked, hcause, rfl, rfl, rfl, rfl⟩)
  | init =>
    rw [step_of_nextTransaction hnext] at hstep
    cases hstep
    exact .inr (.inl ⟨rfl, rfl⟩)
  | load rom =>
    rw [step_of_nextTransaction hnext] at hstep
    obtain ⟨hfits, rfl⟩ | ⟨-, rfl⟩ := perform_load_cases hstep
    · exact .inl ⟨rfl, rom, rfl, hfits⟩
    · exact absurd rfl hchanged
  | tick | key | speed | status | takeFrame | takeBeep =>
    exact absurd (onlyEngineTouchesProgramState s t hstep (by simp [hnext]) (by simp [hnext]) (by simp [hnext]) .running
      (by simp)) hchanged

end Sys2Proof.Machine
end

section
/-! PROOFS. The invariant of the block and the font: each shared operation keeps them, hence each instruction and each transaction
does, hence every step (10_state.md, 20_memory.md R73, R77, 60_exceptions.md R353). -/

namespace Sys2Proof.Machine

/-! ### Everything an instruction can do to memory -/

@[simp] theorem loadRegs_mem (s : State) (a : Nat) (ks : List Reg) : (s.loadRegs a ks).mem = s.mem := by
  induction ks generalizing s with
  | nil => rfl
  | cons k ks ih => exact ih _

@[simp] theorem shiftResult_mem (s : State) (x : Reg) (r : Byte) (f : Bool) : (s.shiftResult x r f).mem = s.mem := by
  unfold State.shiftResult
  split <;> rfl

/-- An instruction stores bytes at increasing addresses, most often none. -/
theorem exec_mem {i : Instr} {s t : State} (h : exec i s = .next t) : ∃ a bs, t.mem = (s.storeBytes a bs).mem := by
  cases i with
  | ldBVx x => cases h; exact ⟨_, _, rfl⟩
  | ldMemVx x => cases h; exact ⟨_, _, rfl⟩
  | ldVxMem x => cases h; exact ⟨0, [], loadRegs_mem s _ _⟩
  | seImm | sneImm | seReg | sneReg | skp | sknp => cases h; exact ⟨0, [], s.skipIf_mem _⟩
  | shr | shl => cases h; exact ⟨0, [], shiftResult_mem s _ _ _⟩
  | rnd => cases h; exact ⟨0, [], s.consumeRand_mem⟩
  | ret => obtain ⟨-, rfl⟩ | ⟨w, rest, -, rfl⟩ := exec_ret_cases h <;> exact ⟨0, [], rfl⟩
  | call => obtain ⟨-, rfl⟩ | ⟨-, rfl⟩ := exec_call_cases h <;> exact ⟨0, [], rfl⟩
  | ldVxK =>
    obtain ⟨k, -, rfl⟩ | ⟨-, rfl⟩ := exec_ldVxK_cases h
    · exact ⟨0, [], State.beginWait_mem _ k⟩
    · exact ⟨0, [], rfl⟩
  | _ => cases h; exact ⟨0, [], rfl⟩

theorem exec_cfg {i : Instr} {s t : State} (h : exec i s = .next t) : t.cfg = s.cfg :=
  exec_engine_frame h .parameters (by decide)

theorem storeBytes_cfg (s : State) (a : Nat) (bs : List Byte) : (s.storeBytes a bs).cfg = s.cfg :=
  storeBytes_frame s a bs .parameters (by decide)

/-- Every instruction keeps memory in canonical form. -/
theorem exec_memory_wf {i : Instr} {s t : State} (hm : Memory.wf s.cfg s.mem) (h : exec i s = .next t) :
    Memory.wf t.cfg t.mem := by
  obtain ⟨a, bs, hmem⟩ := exec_mem h
  have hstore := State.storeBytes_wf hm a bs
  rwa [storeBytes_cfg, ← hmem, ← exec_cfg h] at hstore

/-- Every instruction leaves a byte that loses stores as it was (20_memory.md R73). -/
theorem exec_memRead_of_ignored {i : Instr} {s t : State} (hm : Memory.wf s.cfg s.mem) (h : exec i s = .next t) {a : Nat}
    (ha : s.writeIgnored a = true) : t.memRead a = s.memRead a := by
  obtain ⟨b, bs, hmem⟩ := exec_mem h
  have hcfg : t.cfg = (s.storeBytes b bs).cfg := (exec_cfg h).trans (storeBytes_cfg s b bs).symm
  exact (State.memRead_congr hmem hcfg a).trans (State.storeBytes_ignored hm b a bs ha)

/-! ### The invariant, operation by operation -/

section Operations

variable {s t : State}

/-- The parts the invariant does not speak of, and memory, of which it speaks by its canonical form alone. -/
def partsOutsideInv : List Part :=
  [.registers, .index, .programCounter, .memory, .display, .delayTimer, .soundTimer, .pacingDelay, .inputs, .scheduler, .random,
   .replies]

theorem State.Inv.of_unchanged (hs : s.Inv) (hwf : Memory.wf t.cfg t.mem) (h : UnchangedBut partsOutsideInv s t) : t.Inv := by
  have hcfg : t.cfg = s.cfg := h .parameters (by decide)
  have htrace : t.env.trace = s.env.trace := h .trace (by decide)
  have hframes : t.env.frames = s.env.frames := h .frames (by decide)
  have hbeeps : t.env.beeps = s.env.beeps := h .beeps (by decide)
  have hstack : t.stack = s.stack := h .stack (by decide)
  have hfault : t.fault = s.fault := h .faultRecord (by decide)
  have hrun : t.running = s.running := h .running (by decide)
  have hblocked : t.blocked = s.blocked := h .blocked (by decide)
  have hwait : t.waitKey = s.waitKey := h .waitKey (by decide)
  have hkeys : ∀ k, t.key k = s.key k := h .keys (by decide)
  constructor <;> simp only [hcfg, htrace, hframes, hbeeps, hstack, hfault, hrun, hblocked, hwait, hkeys]
  exacts [hcfg ▸ hwf, hs.framesOffered, hs.beepsOffered, hs.framesRoom, hs.beepsRoom, hs.stackRoom, hs.faultHalts,
    hs.faultClear, hs.blockedRuns, hs.blockedWaits, hs.blockedHolds]

theorem publishFrame_inv (hs : s.Inv) : s.publishFrame.Inv :=
  { hs with
    framesOffered := by
      simpa using Channel.offer_sublist hs.framesOffered s.cfg.frameCap s.nextLoss s.disp
    beepsOffered := by simpa using hs.beepsOffered
    framesRoom := Channel.offer_room hs.framesRoom s.nextLoss s.disp }

theorem emitBeep_inv (hs : s.Inv) (on : Bool) : (s.emitBeep on).Inv :=
  { hs with
    framesOffered := by simpa using hs.framesOffered
    beepsOffered := by
      simpa using Channel.offer_sublist hs.beepsOffered s.cfg.beepCap s.nextLoss on
    beepsRoom := Channel.offer_room hs.beepsRoom s.nextLoss on }

theorem takeFrame_inv (hs : s.Inv) : s.takeFrame.Inv :=
  { hs with
    framesOffered := by
      rw [State.takeFrame_env_frames, Channel.take_append]
      exact hs.framesOffered
    framesRoom := by
      rw [State.takeFrame_env_frames, Channel.take_pending, List.length_tail]
      exact (Nat.sub_le _ 1).trans hs.framesRoom }

theorem takeBeep_inv (hs : s.Inv) : s.takeBeep.Inv :=
  { hs with
    beepsOffered := by
      rw [State.takeBeep_env_beeps, Channel.take_append]
      exact hs.beepsOffered
    beepsRoom := by
      rw [State.takeBeep_env_beeps, Channel.take_pending, List.length_tail]
      exact (Nat.sub_le _ 1).trans hs.beepsRoom }

/-- The fatal halt is raised only by an ENGINE that is not blocked. -/
theorem raiseFatal_inv (hs : s.Inv) (hblocked : s.blocked = false) {cause : Cause} (hcause : cause ≠ .none) (a w : Word) :
    (s.raiseFatal cause a w).Inv :=
  { hs with
    framesOffered := by simpa using hs.framesOffered
    beepsOffered := by simpa using hs.beepsOffered
    faultHalts := fun _ => rfl
    faultClear := fun hnone => absurd hnone hcause
    blockedRuns := fun h => by simp [hblocked] at h }

theorem setStack_inv (hs : s.Inv) {k : List Word} (hroom : ∀ d, s.cfg.stackDepth = some d → k.length ≤ d) :
    (s.setStack k).Inv :=
  { hs with stackRoom := hroom }

theorem setPc_inv (hs : s.Inv) (w : Word) : (s.setPc w).Inv := { hs with }

/-- FX0A begins its wait on a key that is held (45_keys_timers.md R304). -/
theorem beginWait_inv (hs : s.Inv) (hrun : s.running = true) {k : Key} (hk : s.key k = true) : (s.beginWait k).Inv := by
  by_cases hw : s.cfg.keyWait = .none
  · rwa [beginWait_of_none hw]
  · rw [beginWait_of_waiting hw]
    exact { hs with
      blockedRuns := fun _ => hrun
      blockedWaits := fun _ => hw
      blockedHolds := fun _ => hk }

/-- A KEY that leaves the block standing leaves the reported key held (60_exceptions.md R357). -/
theorem keyEvent_inv (hs : s.Inv) (k : Key) (p : Bool) : (s.keyEvent k p).Inv := by
  have hstill (h : (s.keyEvent k p).blocked = true) : s.blocked = true ∧ ¬s.endsWait k p (s.key k) = true := by
    simpa using h
  exact { hs with
    blockedRuns := fun h => hs.blockedRuns (hstill h).1
    blockedWaits := fun h => hs.blockedWaits (hstill h).1
    blockedHolds := fun h => by
      obtain ⟨hblocked, hends⟩ := hstill h
      have hheld := hs.blockedHolds hblocked
      rw [endsWait_iff, not_or] at hends
      rw [State.key_keyEvent, State.keyEvent_waitKey]
      split
      · rename_i hk
        cases hw : s.cfg.keyWait with
        | none => exact absurd hw (hs.blockedWaits hblocked)
        | untilRelease => simpa [hw, hk] using hends.1
        | untilAnyChange => rw [hk] at hheld; simpa [hw, hheld, eq_comm] using hends.2
      · exact hheld }

/-- The reset column in the surroundings of a lawful state (log 11: the channels stay). -/
theorem initial_inv (hs : s.Inv) : (State.initial s.cfg s.env).Inv :=
  { hs with
    memory := ⟨List.Pairwise.nil, fun _ h => nomatch h⟩
    stackRoom := fun _ _ => Nat.zero_le _
    faultHalts := fun h => absurd rfl h
    faultClear := fun _ => rfl
    blockedRuns := fun h => nomatch h
    blockedWaits := fun h => nomatch h
    blockedHolds := fun h => nomatch h }

theorem loaded_inv (hs : s.Inv) {rom : List Byte} (hfits : rom.length ≤ 3584) : (s.loaded rom).Inv :=
  { initial_inv hs with
    memory := romCells_wf (by simp only [progBase, memSize]; omega)
    faultHalts := fun h => absurd rfl h
    blockedRuns := fun _ => rfl }

theorem reply_inv (hs : s.Inv) (r : Reply) : (s.reply r).Inv := { hs with }

end Operations

/-! ### The invariant, transition by transition -/

/-- An instruction run by an ENGINE that is running and not blocked keeps the invariant. -/
theorem exec_inv {i : Instr} {s t : State} (hs : s.Inv) (hrun : s.running = true) (hblocked : s.blocked = false)
    (h : exec i s = .next t) : t.Inv := by
  have hwf := exec_memory_wf hs.memory h
  cases i with
  | cls =>
    cases h
    exact publishFrame_inv (State.Inv.of_unchanged hs hwf ((setDisp_frame s _).mono (by simp [partsOutsideInv])))
  | drw x y n =>
    cases h
    exact publishFrame_inv (State.Inv.of_unchanged hs hwf
      ((setDisp_frame s (s.canvasAfterDraw x y n).disp).comp (writeV_frame _ vf _) (by simp [partsOutsideInv])))
  | ret =>
    obtain ⟨-, rfl⟩ | ⟨w, rest, hstack, rfl⟩ := exec_ret_cases h
    · exact raiseFatal_inv hs hblocked Cause.noConfusion _ _
    · refine setPc_inv (setStack_inv hs fun d hd => ?_) w
      have hroom := hs.stackRoom d hd
      rw [hstack, List.length_cons] at hroom
      omega
  | call nnn =>
    obtain ⟨-, rfl⟩ | ⟨hroom, rfl⟩ := exec_call_cases h
    · exact raiseFatal_inv hs hblocked Cause.noConfusion _ _
    · exact setPc_inv (setStack_inv (k := s.pc :: s.stack) hs (stackFull_eq_false.mp hroom)) _
  | ldVxK x =>
    obtain ⟨k, hk, rfl⟩ | ⟨-, rfl⟩ := exec_ldVxK_cases h
    · refine beginWait_inv (s := s.writeV x _) (State.Inv.of_unchanged hs hs.memory ?_) hrun (State.key_of_leastKey hk)
      exact (writeV_frame s x _).mono (by simp [partsOutsideInv])
    · exact setPc_inv hs _
  | _ => exact State.Inv.of_unchanged hs hwf ((exec_frame h).mono (by simp [writeSet, partsOutsideInv]))

theorem cycle_inv {s t : State} (hs : s.Inv) (h : cycle s = .next t) : t.Inv := by
  have hadvance : s.advance.Inv := setPc_inv hs _
  obtain ⟨-, rfl⟩ | ⟨hidle, -, rfl⟩ | ⟨hidle, i, -, hexec⟩ := cycle_cases h
  · exact hs
  · exact raiseFatal_inv hadvance (idle_eq_false.mp hidle).2 Cause.noConfusion _ _
  · obtain ⟨hrun, hblocked⟩ := idle_eq_false.mp hidle
    exact exec_inv hadvance hrun hblocked hexec

theorem perform_inv {tr : Transaction} {s t : State} (hs : s.Inv) (h : perform tr s = .next t) : t.Inv := by
  cases tr with
  | cycle => exact cycle_inv hs h
  | tick => cases h; exact emitBeep_inv (s := { s with dt := countDown s.dt, st := countDown s.st }) { hs with } _
  | key k p => cases h; exact keyEvent_inv hs k p
  | load rom =>
    obtain ⟨hfits, rfl⟩ | ⟨-, rfl⟩ := perform_load_cases h
    · exact reply_inv (loaded_inv hs hfits) _
    · exact reply_inv hs _
  | init => cases h; exact initial_inv hs
  | speed delta => cases h; exact { hs with }
  | status => cases h; exact reply_inv hs _
  | takeFrame => cases h; exact takeFrame_inv hs
  | takeBeep => cases h; exact takeBeep_inv hs

/-- Settles O57: choosing a transition touches the schedule alone, and every transition keeps the invariant. -/
theorem invariantIsKept : Obligations.InvariantIsKept := by
  intro s t hs hstep
  have hchoice : s.afterChoice.Inv := { hs with }
  exact perform_inv hchoice hstep

/-- Settles O58: memory, channels, trace and stack are empty, and nothing runs. -/
theorem resetMeetsTheInvariant : Obligations.ResetMeetsTheInvariant where
  memory := reset_memory_wf
  framesOffered := List.Sublist.refl _
  beepsOffered := List.Sublist.refl _
  framesRoom := Nat.zero_le _
  beepsRoom := Nat.zero_le _
  stackRoom := fun _ _ => Nat.zero_le _
  faultHalts := fun _ => rfl
  faultClear := fun _ => rfl
  blockedRuns := fun h => nomatch h
  blockedWaits := fun h => nomatch h
  blockedHolds := fun h => nomatch h

/-! ### The font -/

theorem State.FontIntact.of_unchanged {s t : State} (hs : s.FontIntact) (hcfg : t.cfg = s.cfg)
    (hmem : s.cfg.fontWritable = false → ∀ k : Fin 80, t.memRead (0x050 + k.val) = s.memRead (0x050 + k.val)) :
    t.FontIntact := by
  intro hw k
  rw [hcfg] at hw ⊢
  rw [hmem hw, hs hw]

/-- A store to a glyph byte is lost while FONT_WRITABLE is false (D11). -/
theorem writeIgnored_font {s : State} (hw : s.cfg.fontWritable = false) (k : Fin 80) :
    s.writeIgnored (0x050 + k.val) = true := by
  exact writeIgnored_iff.mpr ⟨hw, by omega, by omega⟩

theorem exec_fontIntact {i : Instr} {s t : State} (hm : Memory.wf s.cfg s.mem) (hs : s.FontIntact) (h : exec i s = .next t) :
    t.FontIntact :=
  State.FontIntact.of_unchanged hs (exec_cfg h) fun hw k => exec_memRead_of_ignored hm h (writeIgnored_font hw k)

theorem cycle_fontIntact {s t : State} (hm : Memory.wf s.cfg s.mem) (hs : s.FontIntact) (h : cycle s = .next t) :
    t.FontIntact := by
  obtain ⟨-, rfl⟩ | ⟨-, -, rfl⟩ | ⟨-, i, -, hexec⟩ := cycle_cases h
  · exact hs
  · exact hs
  · exact exec_fontIntact (s := s.advance) hm hs hexec

theorem perform_fontIntact {tr : Transaction} {s t : State} (hm : Memory.wf s.cfg s.mem) (hs : s.FontIntact)
    (h : perform tr s = .next t) : t.FontIntact := by
  cases tr with
  | cycle => exact cycle_fontIntact hm hs h
  | load rom =>
    obtain ⟨-, rfl⟩ | ⟨-, rfl⟩ := perform_load_cases h
    · exact fun _ k => (memRead_loaded_elsewhere (s := s) (by omega) (.inl (by omega))).trans (resetByte_font s.cfg k)
    · exact hs
  | init => cases h; exact fun _ k => memRead_initial_font s.cfg s.env k
  | tick | key | speed | status | takeFrame | takeBeep => cases h; exact hs

/-- Settles O59: stores to the font are lost, and both resets put it back. -/
theorem fontStaysIntact : Obligations.FontStaysIntact := fun s _ hm hs hstep =>
  perform_fontIntact (s := s.afterChoice) hm hs hstep

end Sys2Proof.Machine
end

section
/-! PROOFS. No transition depends on the outputs, the pacing delay or their parameters (10_state.md R44, R46,
70_reset_and_hazards.md R402): every operation commutes with hiding them. -/

namespace Sys2Proof.Machine

/-! ### Memory depends on the parameters through the reset contents alone -/

section ResetContents

variable {c c' : Config} (hreset : ∀ l, resetByte c l = resetByte c' l)
include hreset

theorem Memory.get_congr (m : Memory) (l : Nat) : Memory.get c m l = Memory.get c' m l := by
  induction m with
  | nil => exact hreset l
  | cons p m ih => simp only [Memory.get, ih]

theorem Memory.put_congr (m : Memory) (l : Nat) (x : Byte) : Memory.put c m l x = Memory.put c' m l x := by
  induction m with
  | nil => simp only [Memory.put, hreset]
  | cons p m ih => simp only [Memory.put, hreset, ih]

theorem romCells_congr (a : Nat) (rom : List Byte) : romCells c a rom = romCells c' a rom := by
  induction rom generalizing a with
  | nil => rfl
  | cons b bs ih => simp only [romCells, hreset, ih]

end ResetContents

/-! ### Hiding, operation by operation -/

/-- Hiding twice hides no more. -/
theorem hideOutputs_of_eq_hideOutputs {s u : State} (h : u = s.hideOutputs) : u.hideOutputs = s.hideOutputs := by
  rw [h]
  rfl

section Operations

variable (s : State)

theorem resetByte_hideOutputs (l : Nat) : resetByte s.hideOutputs.cfg l = resetByte s.cfg l := rfl

theorem memRead_hideOutputs (a : Nat) : s.hideOutputs.memRead a = s.memRead a :=
  Memory.get_congr (resetByte_hideOutputs s) s.mem (loc a)

theorem fetchWord_hideOutputs (p : Word) : s.hideOutputs.fetchWord p = s.fetchWord p :=
  congrArg₂ wordOfBytes (memRead_hideOutputs s _) (memRead_hideOutputs s _)

theorem memWrite_hideOutputs (a : Nat) (b : Byte) : s.hideOutputs.memWrite a b = (s.memWrite a b).hideOutputs := by
  have hignored : s.hideOutputs.writeIgnored a = s.writeIgnored a := rfl
  have hput : Memory.put s.hideOutputs.cfg s.hideOutputs.mem (loc a) b = Memory.put s.cfg s.mem (loc a) b :=
    Memory.put_congr (resetByte_hideOutputs s) s.mem (loc a) b
  unfold State.memWrite
  rw [hignored, hput]
  split <;> rfl

theorem storeBytes_hideOutputs (a : Nat) (bs : List Byte) :
    s.hideOutputs.storeBytes a bs = (s.storeBytes a bs).hideOutputs := by
  induction bs generalizing s a with
  | nil => rfl
  | cons b bs ih => rw [State.storeBytes, memWrite_hideOutputs, ih]; rfl

theorem loadRegs_hideOutputs (a : Nat) (ks : List Reg) : s.hideOutputs.loadRegs a ks = (s.loadRegs a ks).hideOutputs := by
  induction ks generalizing s with
  | nil => rfl
  | cons k ks ih =>
    rw [State.loadRegs, memRead_hideOutputs]
    exact ih (s.writeV k (s.memRead (a + k.val)))

theorem skipIf_hideOutputs (c : Bool) : s.hideOutputs.skipIf c = (s.skipIf c).hideOutputs := by
  cases c <;> rfl

theorem shiftResult_hideOutputs (x : Reg) (r : Byte) (f : Bool) :
    s.hideOutputs.shiftResult x r f = (s.shiftResult x r f).hideOutputs := by
  cases h : s.cfg.vfOrder with
  | textOrder => rw [shiftResult_of_textOrder h, shiftResult_of_textOrder (s := s.hideOutputs) h]; rfl
  | flagLast => rw [shiftResult_of_flagLast h, shiftResult_of_flagLast (s := s.hideOutputs) h]; rfl

theorem consumeRand_hideOutputs : s.hideOutputs.consumeRand = s.consumeRand.hideOutputs := by
  have hdraws : s.hideOutputs.env.draws = s.env.draws := rfl
  unfold State.consumeRand
  rw [hdraws]
  split <;> rfl

theorem beginWait_hideOutputs (k : Key) : s.hideOutputs.beginWait k = (s.beginWait k).hideOutputs := by
  by_cases h : s.cfg.keyWait = .none
  · rw [beginWait_of_none h, beginWait_of_none (s := s.hideOutputs) h]
  · rw [beginWait_of_waiting h, beginWait_of_waiting (s := s.hideOutputs) h]; rfl

theorem canvasAfterDraw_hideOutputs (x y : Reg) (n : Nat) :
    s.hideOutputs.canvasAfterDraw x y n = s.canvasAfterDraw x y n := by
  have hsprite : s.hideOutputs.sprite n = s.sprite n := List.map_congr_left fun r _ => memRead_hideOutputs s (s.ea r)
  simp only [State.canvasAfterDraw, hsprite]
  rfl

theorem loaded_hideOutputs (rom : List Byte) : (s.hideOutputs.loaded rom).hideOutputs = (s.loaded rom).hideOutputs := by
  have hcells := romCells_congr (resetByte_hideOutputs s) progBase rom
  simp only [State.loaded, hcells]
  rfl

end Operations

/-! ### Hiding, transition by transition -/

/-- No instruction depends on what is hidden. -/
theorem exec_hideOutputs {i : Instr} {s t : State} (h : exec i s = .next t) :
    ∃ u, exec i s.hideOutputs = .next u ∧ u.hideOutputs = t.hideOutputs := by
  cases i with
  | ret =>
    obtain ⟨hstack, rfl⟩ | ⟨w, rest, hstack, rfl⟩ := exec_ret_cases h
    · exact ⟨_, exec_ret_of_nil (s := s.hideOutputs) hstack, rfl⟩
    · exact ⟨_, exec_ret_of_cons (s := s.hideOutputs) hstack, rfl⟩
  | call nnn =>
    obtain ⟨hfull, rfl⟩ | ⟨hroom, rfl⟩ := exec_call_cases h
    · exact ⟨_, exec_call_of_full (s := s.hideOutputs) hfull, rfl⟩
    · exact ⟨_, exec_call_of_room (s := s.hideOutputs) hroom, rfl⟩
  | ldVxK x =>
    obtain ⟨k, hk, rfl⟩ | ⟨hk, rfl⟩ := exec_ldVxK_cases h
    · exact ⟨_, exec_ldVxK_of_some (s := s.hideOutputs) hk,
        hideOutputs_of_eq_hideOutputs (beginWait_hideOutputs (s.writeV x _) k)⟩
    · exact ⟨_, exec_ldVxK_of_none (s := s.hideOutputs) hk, rfl⟩
  | drw x y n =>
    cases h
    refine ⟨_, exec_drw s.hideOutputs x y n, ?_⟩
    rw [canvasAfterDraw_hideOutputs]
    rfl
  | seImm | sneImm | seReg | sneReg | skp | sknp =>
    cases h; exact ⟨_, rfl, hideOutputs_of_eq_hideOutputs (skipIf_hideOutputs s _)⟩
  | shr | shl => cases h; exact ⟨_, rfl, hideOutputs_of_eq_hideOutputs (shiftResult_hideOutputs s _ _ _)⟩
  | rnd x nn =>
    cases h
    refine ⟨_, exec_rnd s.hideOutputs x nn, ?_⟩
    rw [consumeRand_hideOutputs]
    rfl
  | ldBVx => cases h; exact ⟨_, rfl, hideOutputs_of_eq_hideOutputs (storeBytes_hideOutputs s _ _)⟩
  | ldMemVx x =>
    cases h
    refine ⟨_, exec_ldMemVx s.hideOutputs x, ?_⟩
    rw [storeBytes_hideOutputs]
    rfl
  | ldVxMem x =>
    cases h
    refine ⟨_, exec_ldVxMem s.hideOutputs x, ?_⟩
    rw [loadRegs_hideOutputs]
    rfl
  | _ => cases h; exact ⟨_, rfl, rfl⟩

theorem cycle_hideOutputs {s t : State} (h : cycle s = .next t) :
    ∃ u, cycle s.hideOutputs = .next u ∧ u.hideOutputs = t.hideOutputs := by
  have hword : s.hideOutputs.fetchWord s.hideOutputs.pc = s.fetchWord s.pc := fetchWord_hideOutputs s s.pc
  obtain ⟨hidle, rfl⟩ | ⟨hidle, hdecode, rfl⟩ | ⟨hidle, i, hdecode, hexec⟩ := cycle_cases h
  · exact ⟨_, cycle_of_idle (s := t.hideOutputs) hidle, rfl⟩
  · refine ⟨_, cycle_of_unrecognized (s := s.hideOutputs) hidle (hword ▸ hdecode), ?_⟩
    rw [hword]
    rfl
  · rw [cycle_of_decodeWord (s := s.hideOutputs) hidle (hword ▸ hdecode)]
    exact exec_hideOutputs (s := s.advance) hexec

/-- No transition of any agent depends on what is hidden. -/
theorem perform_hideOutputs {tr : Transaction} {s t : State} (h : perform tr s = .next t) :
    ∃ u, perform tr s.hideOutputs = .next u ∧ u.hideOutputs = t.hideOutputs := by
  cases tr with
  | cycle => exact cycle_hideOutputs h
  | load rom =>
    refine ⟨_, rfl, ?_⟩
    obtain ⟨hfits, rfl⟩ | ⟨hbig, rfl⟩ := perform_load_cases h
    · rw [load_of_fits hfits]
      exact loaded_hideOutputs s rom
    · rw [load_of_oversized hbig]
      rfl
  | _ => cases h; exact ⟨_, rfl, rfl⟩

theorem step_hideOutputs {s t : State} (h : step s = .next t) :
    ∃ u, step s.hideOutputs = .next u ∧ u.hideOutputs = t.hideOutputs :=
  perform_hideOutputs (s := s.afterChoice) h

/-- Settles O60: both steps are the one from the common hidden state, up to hiding. -/
theorem outputsCannotBeObserved : Obligations.OutputsCannotBeObserved := by
  intro s₁ s₂ t₁ t₂ hsame h₁ h₂
  obtain ⟨u₁, hu₁, ht₁⟩ := step_hideOutputs h₁
  obtain ⟨u₂, hu₂, ht₂⟩ := step_hideOutputs h₂
  rw [hsame, hu₂] at hu₁
  cases hu₁
  exact ht₁.symm.trans ht₂

end Sys2Proof.Machine
end

section
/-! PROOFS. Step runs and interleavings, and the timers of a fair execution (20_memory.md R81, 70_reset_and_hazards.md R405). -/

namespace Sys2Proof.Machine

/-! ### Interleavings -/

/-- An interleaving does not depend on the schedule of the states it runs through. -/
theorem Interleaves.resched {l : List Transaction} {s t : State} (h : Interleaves l s t) (l' : List Transaction)
    (sch : Scheduler) (k : Nat) : Interleaves l (s.resched l' sch k) (t.resched l' sch k) := by
  induction l generalizing s with
  | nil => exact congrArg (·.resched l' sch k) h
  | cons tr l ih =>
    obtain ⟨u, hu, hrest⟩ := h
    exact ⟨_, perform_resched hu l' sch k, ih hrest⟩

/-- A step from a state with `tr` first in its schedule performs `tr` and leaves the rest of the schedule. -/
theorem step_of_scheduled {tr : Transaction} {s u : State} (h : perform tr s = .next u) (l : List Transaction) :
    step (s.resched (tr :: l) s.env.unscheduled s.env.turn) = .next (u.resched l u.env.unscheduled u.env.turn) := by
  obtain ⟨-, hsch, hturn⟩ := perform_schedule h
  rw [hsch, hturn]
  exact perform_resched h l s.env.unscheduled s.env.turn

/-- A step performs one transition, up to the schedule. -/
theorem perform_of_step {s u : State} (h : step s = .next u) :
    perform s.nextTransaction s = .next (u.resched s.env.inputs s.env.unscheduled s.env.turn) :=
  perform_resched (s := s.afterChoice) h s.env.inputs s.env.unscheduled s.env.turn

theorem steps_of_interleaves {l : List Transaction} {s t : State} (h : Interleaves l s t) (rest : List Transaction) :
    Steps l.length (s.resched (l ++ rest) s.env.unscheduled s.env.turn) (t.resched rest t.env.unscheduled t.env.turn) := by
  induction l generalizing s with
  | nil => cases h; rfl
  | cons tr l ih =>
    obtain ⟨u, hu, hrest⟩ := h
    exact ⟨_, step_of_scheduled hu (l ++ rest), ih hrest⟩

theorem interleaves_of_steps {n : Nat} {s t : State} (h : Steps n s t) :
    ∃ l u, l.length = n ∧ Interleaves l s u ∧ t = u.resched t.env.inputs t.env.unscheduled t.env.turn := by
  induction n generalizing s with
  | zero => cases h; exact ⟨[], _, rfl, rfl, rfl⟩
  | succ n ih =>
    obtain ⟨v, hv, hrest⟩ := h
    obtain ⟨l, u, rfl, hl, ht⟩ := ih hrest
    exact ⟨s.nextTransaction :: l, _, rfl, ⟨_, perform_of_step hv, hl.resched _ _ _⟩, ht⟩

/-- Settles O54: by induction on the transitions one way and on the steps the other, since no transition reads the schedule. -/
theorem stepRunsAreTheInterleavings : Obligations.StepRunsAreTheInterleavings :=
  ⟨fun _ rest _ _ h => steps_of_interleaves h rest, fun _ _ _ h => interleaves_of_steps h⟩

/-! ### The timers of a fair execution -/

/-- A natural that never grows, and that again and again falls or is 0, is 0 from some point on. -/
theorem eventually_zero {f : Nat → Nat} (hle : ∀ n, f (n + 1) ≤ f n) (hlt : ∀ n, ∃ m, n ≤ m ∧ (f m = 0 ∨ f (m + 1) < f m)) :
    ∃ m, ∀ n, m ≤ n → f n = 0 := by
  have hanti : Antitone f := antitone_nat_of_succ_le hle
  have hreach : ∀ k n, f n ≤ k → ∃ m, f m = 0 := by
    intro k
    induction k with
    | zero => exact fun n hn => ⟨n, Nat.le_zero.mp hn⟩
    | succ k ih =>
      intro n hn
      obtain ⟨m, hm, h0 | hfall⟩ := hlt n
      · exact ⟨m, h0⟩
      · exact ih (m + 1) (Nat.le_of_lt_succ (hfall.trans_le ((hanti hm).trans hn)))
  obtain ⟨m, hm⟩ := hreach _ 0 le_rfl
  exact ⟨m, fun n hn => Nat.le_zero.mp ((hanti hn).trans_eq hm)⟩

/-- What is left to count down. -/
def State.timersLeft (s : State) : Nat := s.dt.toNat + s.st.toNat

theorem timersLeft_eq_zero {s : State} : s.timersLeft = 0 ↔ s.dt = 0 ∧ s.st = 0 := by
  rw [State.timersLeft, Nat.add_eq_zero_iff, ← BitVec.toNat_inj, ← BitVec.toNat_inj]
  rfl

theorem timersLeft_tick (s : State) : s.timersLeft = 0 ∨ s.tick.timersLeft < s.timersLeft := by
  simp only [State.timersLeft, State.tick_dt, State.tick_st, toNat_countDown]
  omega

/-- No transition but a CYCLE sets a timer to more than it held. -/
theorem perform_timersLeft_le {tr : Transaction} {s t : State} (htr : tr ≠ .cycle) (h : perform tr s = .next t) :
    t.timersLeft ≤ s.timersLeft := by
  cases tr with
  | cycle => exact absurd rfl htr
  | tick =>
    cases h
    simp only [State.timersLeft, State.tick_dt, State.tick_st, toNat_countDown]
    omega
  | load rom =>
    obtain ⟨-, rfl⟩ | ⟨-, rfl⟩ := perform_load_cases h
    · exact Nat.zero_le _
    · exact le_rfl
  | init => cases h; exact Nat.zero_le _
  | key | speed | status | takeFrame | takeBeep => cases h; exact le_rfl

/-- Settles O55: what is left never grows, and each of the infinitely many TICKs takes something off while there is any. -/
theorem fairTimersReachZero : Obligations.FairTimersReachZero := by
  intro sched run hexec hfair hkeeps
  have hle : ∀ n, (run (n + 1)).timersLeft ≤ (run n).timersLeft := by
    intro n
    by_cases hcycle : sched n = .cycle
    · obtain ⟨hdt, hst⟩ := hkeeps n hcycle
      rw [State.timersLeft, hdt, hst, State.timersLeft]
    · exact perform_timersLeft_le hcycle (hexec n)
  have hfalls : ∀ n, ∃ m, n ≤ m ∧ ((run m).timersLeft = 0 ∨ (run (m + 1)).timersLeft < (run m).timersLeft) := by
    intro n
    obtain ⟨m, hm, htick⟩ := (hfair n).2
    have hstep := hexec m
    rw [htick] at hstep
    have hnext : (run m).tick = run (m + 1) := Host.Outcome.next.inj hstep
    exact ⟨m, hm, hnext ▸ timersLeft_tick (run m)⟩
  obtain ⟨m, hm⟩ := eventually_zero (f := fun n => (run n).timersLeft) hle hfalls
  exact ⟨m, fun n hn => timersLeft_eq_zero.mp (hm n hn)⟩

end Sys2Proof.Machine
end
